-- ==== Sys2Proof/Word.lean ====
section
/-! DEFINITION. The data the engine moves: bytes, 32-bit words and Colors (10_state.md R10). -/

namespace Sys2Proof

/-- A byte of a blob, and one channel of a Color. -/
abbrev Byte := BitVec 8

/-- A word of the host's register port (R28). -/
abbrev Word := BitVec 32

/-- R10: four unsigned 8-bit channels. -/
structure Color where
  r : Byte
  g : Byte
  b : Byte
  a : Byte
deriving DecidableEq, Repr

end Sys2Proof
end

