-- ==== Sys2Proof/Config.lean ====
section
/-! DEFINITION. The parameters of 00_scope.md section 4 at the values the spec takes (log 1), and the free value. -/

namespace Sys2Proof.Config

/-! Format codes (R3): they fit the 6-bit palette field as well as the image byte. -/

def fmtNone : BitVec 6 := 0
def fmtRgb16 : BitVec 6 := 1
def fmtRgb24 : BitVec 6 := 2
def fmtRgb32 : BitVec 6 := 3
def fmtIdtex4 : BitVec 6 := 4
def fmtIdtex8 : BitVec 6 := 5

/-- A format code as the image pixel-format byte holds it (R52: all eight bits are compared). -/
def imgCode (c : BitVec 6) : Byte := c.zeroExtend 8

/-- `CSM1_VALUE`: the value of CLUT-type bit 7 that means CSM1 (section 4, D4). -/
def csm1Value : BitVec 1 := 0

/-- `COMPOUND_SET`: the value of CLUT-type bit 6 that means "the compound flag is set" (section 4, D4). -/
def compoundSet : BitVec 1 := 1

/-- `DEFAULT_COLOR` (R4): transparent black. -/
def defaultColor : Color := ⟨0, 0, 0, 0⟩

/-! Command opcodes (R51). -/

def opDecodeImage : Byte := 0x01
def opGetClut : Byte := 0x02
def opReset : Byte := 0x7F

/-- `N_MIP_REGS`: the number of `PIC.MIP_SIZE` registers (section 4, D7). -/
abbrev nMipRegs : Nat := 255

/-- `IMG_CAP`, `CLUT_CAP`: the capacity of each blob in bytes, taken at its maximum (D29, U10, log 15). -/
def blobCap : Nat := 2 ^ 32 - 1

/-- FREE VALUE (R29; log 2): what `PIC.MIP_SIZE[i]` holds after reset until the host writes it, which the spec leaves
unspecified. It has no body, so nothing can be proved of its value. -/
opaque freeMipSize : Nat → Word

/-- FREE VALUE (U6; log 6): the `n`-th word the spec leaves open. It has no body, so nothing can be proved of its value. -/
opaque freeWord : Nat → Word

end Sys2Proof.Config
end

