-- ==== Sys2Proof/Machine/State.lean ====
section
/-! DEFINITION. The machine's state as plain data (10_state.md R11), its stops, and the state after reset (R29). -/

namespace Sys2Proof.Machine

/-- The two blob spaces the engine reads (R30). -/
inductive Space where
  | img
  | clut
deriving DecidableEq, Repr

/-- A blob: the bytes written since reset, by rising address. An address that is not listed holds no value (R29, U7, log 4). -/
abbrev Memory := List Host.Cell

/-- The descriptor registers `PIC.*` (R11 to R18). -/
structure Picture where
  width : BitVec 16
  height : BitVec 16
  imgFmt : Byte
  clutType : Byte
  clutColors : BitVec 16
  imageSize : Word
  clutSize : Word
  mipCount : Byte
  mipSize : Vector Word Config.nMipRegs
  /-- The model's own: bit `i` says that the host has written `PIC.MIP_SIZE[i]` since reset (R29, log 2). -/
  mipWritten : BitVec Config.nMipRegs
deriving DecidableEq, Repr

/-- `STATUS.FAULT_CODE` (R21, R130). -/
inductive FaultCode where
  | none
  | clutOverrun
  | imgOverrun
  | illegalCmd
deriving DecidableEq, Repr

/-- The fields of `STATUS` (R21). The host reads them as one word, `Status.toWord`; it never writes them. -/
structure Status where
  done : Bool
  fault : Bool
  invalidMip : Bool
  unknownFmt : Bool
  faultCode : FaultCode
deriving DecidableEq, Repr

/-- What a running command decodes its palette for (R77, R110). -/
inductive Goal where
  /-- `GET_CLUT`. -/
  | clut
  /-- `DECODE_IMAGE` of a level of `w` by `h` pixels at byte `base` (R72, R73). -/
  | image (w h base : Nat)
deriving DecidableEq, Repr

/-- Where a running command stands: the cursors `P` and `K` (R25), the remapped index and the hidden palette `PAL` (R26).
DESIGN CHOICE (log 9): a whole command is one step, so this holds something only when a command is followed operation by
operation. -/
inductive Work where
  /-- `DECODE_IMAGE` of a valid level is accepted; its dimensions and base are about to be computed (R70, R72, R73). -/
  | enterLevel (level : BitVec 8)
  /-- The palette format is about to be classified (R112, first lines). -/
  | palSelect (goal : Goal)
  /-- Entry `k` is about to be remapped; `pal` holds the entries before it (R113, R114). -/
  | palIndex (goal : Goal) (k : Nat) (pal : List Color)
  /-- Raw entry `j` is about to be read as palette entry `k` (R115 to R117). -/
  | palEntry (goal : Goal) (k j : Nat) (pal : List Color)
  /-- The palette is complete, or none is needed (R77). -/
  | ready (goal : Goal) (pal : List Color)
  /-- Pixel `p` of a level of `w` by `h` pixels at byte `base` is about to be decoded (R74). -/
  | pixels (w h base p : Nat) (pal : List Color)
deriving DecidableEq, Repr

/-- What the outside world does to the engine: the accesses of R28, and the reset input (R150). -/
inductive HostEvent where
  /-- Write a word at a register offset. -/
  | write (offset value : Word)
  /-- Read the word at a register offset. -/
  | read (offset : Word)
  /-- Write a byte through the `IMG` or `CLUT` aperture. -/
  | writeBlob (space : Space) (addr : Word) (value : Byte)
  /-- Read a byte through the `IMG` or `CLUT` aperture. -/
  | readBlob (space : Space) (addr : Word)
  /-- Read entry `index` through the `OUT` aperture. -/
  | readOut (index : Word)
  /-- The reset input `rst`. -/
  | rst
deriving DecidableEq, Repr

/-- All the state of one engine (R11), and the host's accesses not yet served. -/
structure State where
  /-- `PIC.*` (R12 to R18). -/
  pic : Picture
  /-- `CMD`: the command written and not yet executed (R20, R29). -/
  cmd : Option Word
  /-- `STATUS` (R21). -/
  status : Status
  /-- `RES_W` (R22). -/
  resW : BitVec 16
  /-- `RES_H` (R22). -/
  resH : BitVec 16
  /-- `RES_COUNT` (R22). -/
  resCount : Word
  /-- The image blob (R23). -/
  img : Memory
  /-- The CLUT blob (R23). -/
  clut : Memory
  /-- `OUT` (R24). -/
  out : List Color
  /-- The cursors and `PAL` of a running command (R25, R26): none between commands. -/
  work : Option Work
  /-- The model's own: host accesses not yet served, oldest first (R39, log 5). -/
  host : List HostEvent
  /-- The model's own: the word the last host read returned (R28, log 5). -/
  rdata : Word
  /-- The model's own: how many free values have been drawn (log 6). -/
  draws : Nat
deriving DecidableEq, Repr

/-- Why the model stops. The spec's own faults (R130) are no stop: they are next states (R138). -/
inductive Fault where
  /-- A command, or a host read, met a byte of a blob that the host has not written since reset (R29, U7). Raised by
  `memRead` and `serveReadBlob`. Safe: the model stops. -/
  | unwrittenByte (space : Space) (addr : Nat)
  /-- The host accessed an address outside a blob's space (R23, log 8). Raised by `serveReadBlob` and `serveWriteBlob`.
  Safe. -/
  | hostOutside (space : Space) (addr : Nat)
deriving DecidableEq, Repr

/-- Why an operation has no meaning where it was asked for. -/
inductive Refusal where
  /-- Raised by no arm: every row has its meaning. Safe. -/
  | notModelled (mnemonic : String)
  /-- A `PX`, `CL` or `IDX` operation asked for where no running command supplies its operands: outside a command `P`, `K`
  and `PAL` have no value (R25, R26, log 16). Safe. -/
  | outsideCommand (mnemonic : String)
deriving DecidableEq, Repr

/-- The descriptor after reset (R29). `PIC.MIP_SIZE[i]` is unspecified there: marked unwritten, so that it reads as the free
value `Config.freeMipSize i`; the field's own 0 is a DESIGN CHOICE that nothing reads (log 2). -/
def Picture.reset : Picture where
  width := 0
  height := 0
  imgFmt := 0
  clutType := 0
  clutColors := 0
  imageSize := 0
  clutSize := 0
  mipCount := 0
  mipSize := Vector.replicate Config.nMipRegs 0
  mipWritten := 0

/-- `STATUS` after reset (R29): the word 0. -/
def Status.reset : Status where
  done := false
  fault := false
  invalidMip := false
  unknownFmt := false
  faultCode := .none

/-- The machine right after reset (R29, R150). -/
def State.reset : State where
  pic := Picture.reset
  cmd := none
  status := Status.reset
  resW := 0
  resH := 0
  resCount := 0
  img := []
  clut := []
  out := []
  work := none
  host := []
  rdata := 0
  draws := 0

end Sys2Proof.Machine
end

