-- ==== Sys2Proof/Machine/Flags.lean ====
section
/-! DEFINITION. `STATUS` as a word and the ways a command writes it (R21). -/

namespace Sys2Proof.Machine

/-- The value of `FAULT_CODE` (R21, R130). -/
def FaultCode.bits : FaultCode → BitVec 4
  | .none => 0
  | .clutOverrun => 1
  | .imgOverrun => 2
  | .illegalCmd => 3

/-- `STATUS` as the host reads it (R21): bits not listed read 0. -/
def Status.toWord (t : Status) : Word :=
  (0 : BitVec 20) ++ t.faultCode.bits ++ (0 : BitVec 4) ++ BitVec.ofBool t.unknownFmt ++
    BitVec.ofBool t.invalidMip ++ BitVec.ofBool t.fault ++ BitVec.ofBool t.done

/-- The start of an accepted command (R21, R70, R110): the per-command flags are cleared. -/
def Status.started (t : Status) : Status :=
  { t with done := false, invalidMip := false, unknownFmt := false }

/-- `flag UNKNOWN_FMT` when `unknown` holds (R96, R118). -/
def Status.flagUnknown (t : Status) (unknown : Bool) : Status :=
  { t with unknownFmt := t.unknownFmt || unknown }

/-- `flag INVALID_MIP` (R71). -/
def Status.flagInvalidMip (t : Status) : Status := { t with invalidMip := true }

/-- Completion without a fault (R21, R76). -/
def Status.completed (t : Status) : Status := { t with done := true }

/-- `STATUS` after fault entry (R138). -/
def Status.faulted (code : FaultCode) : Status where
  done := false
  fault := true
  invalidMip := false
  unknownFmt := false
  faultCode := code

end Sys2Proof.Machine
end

