-- ==== Sys2Proof/Syntax.lean ====
section
/-! DEFINITION. The operations of spec/opcode_table.json, one constructor per row, in the table's order. -/

namespace Sys2Proof

/-- One constructor per row. The first four are command words (R51), the `px` rows are selected by the image
pixel-format byte (R52), the `cl` and `idx` rows by the two groups of the CLUT-type byte (R53). The fallback rows carry the
fields the table gives them. -/
inductive Instr where
  /-- `DECODE_IMAGE` (R70) with its operand `CMD.LEVEL` (R55). -/
  | decodeImage (level : BitVec 8)
  /-- `GET_CLUT` (R110). -/
  | getClut
  /-- `RESET` (R80). -/
  | reset
  /-- `ILLEGAL` (R135): any other opcode. -/
  | illegal (op : BitVec 8)
  /-- `PX.RGB16` (R92). -/
  | pxRgb16
  /-- `PX.RGB24` (R91). -/
  | pxRgb24
  /-- `PX.RGB32` (R90). -/
  | pxRgb32
  /-- `PX.IDTEX4` (R95). -/
  | pxIdtex4
  /-- `PX.IDTEX8` (R94). -/
  | pxIdtex8
  /-- `PX.UNKNOWN` (R96): any other image format byte. -/
  | pxUnknown (fmt : BitVec 8)
  /-- `CL.RGB16` (R115). -/
  | clRgb16
  /-- `CL.RGB24` (R116). -/
  | clRgb24
  /-- `CL.RGB32` (R117). -/
  | clRgb32
  /-- `CL.NONE` (R111). -/
  | clNone
  /-- `CL.UNKNOWN` (R118): any other palette format, in the CLUT-type byte it stands in. -/
  | clUnknown (csm compound : BitVec 1) (fmt : BitVec 6)
  /-- `IDX.COMPOUND` (R113). -/
  | idxCompound
  /-- `IDX.LINEAR` (R114): the other three values of bits 7:6, in the CLUT-type byte they stand in. -/
  | idxLinear (csm compound : BitVec 1) (fmt : BitVec 6)
deriving DecidableEq, Repr

end Sys2Proof
end

