-- ==== Sys2Proof/WellFormed.lean ====
section
/-! DEFINITION. Which terms of `Instr` some word encodes: a fallback row never holds a named value (R54, R61). -/

namespace Sys2Proof

/-- The opcode is one of the three of R51. -/
def isOpcode (op : BitVec 8) : Bool :=
  op == Config.opDecodeImage || op == Config.opGetClut || op == Config.opReset

/-- The image format byte names a decoder of R52. -/
def isImgCode (fmt : BitVec 8) : Bool :=
  fmt == Config.imgCode Config.fmtRgb16 || fmt == Config.imgCode Config.fmtRgb24 ||
  fmt == Config.imgCode Config.fmtRgb32 || fmt == Config.imgCode Config.fmtIdtex4 ||
  fmt == Config.imgCode Config.fmtIdtex8

/-- The palette format is named by R53: an entry format, or none. -/
def isClutCode (fmt : BitVec 6) : Bool :=
  fmt == Config.fmtRgb16 || fmt == Config.fmtRgb24 || fmt == Config.fmtRgb32 || fmt == Config.fmtNone

/-- CSM1 with the compound flag set (R113). -/
def isCompound (csm compound : BitVec 1) : Bool :=
  csm == Config.csm1Value && compound == Config.compoundSet

/-- A term that some word encodes. -/
def Instr.wellFormed : Instr → Bool
  | .illegal op => !isOpcode op
  | .pxUnknown fmt => !isImgCode fmt
  | .clUnknown _ _ fmt => !isClutCode fmt
  | .idxLinear csm compound _ => !isCompound csm compound
  | .decodeImage _ => true
  | .getClut => true
  | .reset => true
  | .pxRgb16 => true
  | .pxRgb24 => true
  | .pxRgb32 => true
  | .pxIdtex4 => true
  | .pxIdtex8 => true
  | .clRgb16 => true
  | .clRgb24 => true
  | .clRgb32 => true
  | .clNone => true
  | .idxCompound => true

end Sys2Proof
end

