-- ==== Sys2Proof/Decode.lean ====
section
/-! DEFINITION. From selector words to operations, group by group (R50 to R54), the encoder, and the opcode table as data. -/

namespace Sys2Proof

/-- The four selector groups of R54. -/
inductive Group where
  | cmd
  | imgFmt
  | clutFmt
  | clutIdx
deriving DecidableEq, Repr

/-- `CMD.OP` = bits 7:0 (R50). -/
def cmdOp (w : Word) : BitVec 8 := w.extractLsb' 0 8

/-- `CMD.LEVEL` = bits 15:8 (R50, R55). -/
def cmdLevel (w : Word) : BitVec 8 := w.extractLsb' 8 8

/-- `PIC.CLUT_TYPE.CSM` = bit 7 (R14, R53). -/
def clutCsm (b : Byte) : BitVec 1 := b.extractLsb' 7 1

/-- `PIC.CLUT_TYPE.COMPOUND` = bit 6 (R14, R53). -/
def clutCompound (b : Byte) : BitVec 1 := b.extractLsb' 6 1

/-- `PIC.CLUT_TYPE.FMT` = bits 5:0 (R14, R53). -/
def clutFmt (b : Byte) : BitVec 6 := b.extractLsb' 0 6

/-- The command word (R50, R51): bits 31:16 are ignored, `LEVEL` matters to `DECODE_IMAGE` only. -/
def decodeCmd (w : Word) : Instr :=
  if cmdOp w = Config.opDecodeImage then .decodeImage (cmdLevel w)
  else if cmdOp w = Config.opGetClut then .getClut
  else if cmdOp w = Config.opReset then .reset
  else .illegal (cmdOp w)

/-- The image pixel-format byte (R52). -/
def decodeImgFmt (b : Byte) : Instr :=
  if b = Config.imgCode Config.fmtRgb16 then .pxRgb16
  else if b = Config.imgCode Config.fmtRgb24 then .pxRgb24
  else if b = Config.imgCode Config.fmtRgb32 then .pxRgb32
  else if b = Config.imgCode Config.fmtIdtex4 then .pxIdtex4
  else if b = Config.imgCode Config.fmtIdtex8 then .pxIdtex8
  else .pxUnknown b

/-- The palette format, bits 5:0 of the CLUT-type byte (R53). -/
def decodeClutFmt (b : Byte) : Instr :=
  if clutFmt b = Config.fmtRgb16 then .clRgb16
  else if clutFmt b = Config.fmtRgb24 then .clRgb24
  else if clutFmt b = Config.fmtRgb32 then .clRgb32
  else if clutFmt b = Config.fmtNone then .clNone
  else .clUnknown (clutCsm b) (clutCompound b) (clutFmt b)

/-- The index operation, bits 7:6 of the CLUT-type byte (R53). -/
def decodeClutIdx (b : Byte) : Instr :=
  if isCompound (clutCsm b) (clutCompound b) then .idxCompound
  else .idxLinear (clutCsm b) (clutCompound b) (clutFmt b)

/-- The one row of group `g` that a word selects (R54). The word of a byte-wide format stands in bits 7:0. -/
def decodeWord : Group → Word → Instr
  | .cmd, w => decodeCmd w
  | .imgFmt, w => decodeImgFmt (w.extractLsb' 0 8)
  | .clutFmt, w => decodeClutFmt (w.extractLsb' 0 8)
  | .clutIdx, w => decodeClutIdx (w.extractLsb' 0 8)

/-- The group a row belongs to (opcode_table.json, member "group"). -/
def Instr.group : Instr → Group
  | .decodeImage _ => .cmd
  | .getClut => .cmd
  | .reset => .cmd
  | .illegal _ => .cmd
  | .pxRgb16 => .imgFmt
  | .pxRgb24 => .imgFmt
  | .pxRgb32 => .imgFmt
  | .pxIdtex4 => .imgFmt
  | .pxIdtex8 => .imgFmt
  | .pxUnknown _ => .imgFmt
  | .clRgb16 => .clutFmt
  | .clRgb24 => .clutFmt
  | .clRgb32 => .clutFmt
  | .clNone => .clutFmt
  | .clUnknown _ _ _ => .clutFmt
  | .idxCompound => .clutIdx
  | .idxLinear _ _ _ => .clutIdx

/-- A CLUT-type byte put together from its three fields (R53). -/
def clutTypeByte (csm compound : BitVec 1) (fmt : BitVec 6) : Byte := csm ++ compound ++ fmt

/-- The selector word of an operation; bits the row does not fix and has no field for are 0. -/
def encode : Instr → Word
  | .decodeImage level => (level ++ Config.opDecodeImage).zeroExtend 32
  | .getClut => Config.opGetClut.zeroExtend 32
  | .reset => Config.opReset.zeroExtend 32
  | .illegal op => op.zeroExtend 32
  | .pxRgb16 => (Config.imgCode Config.fmtRgb16).zeroExtend 32
  | .pxRgb24 => (Config.imgCode Config.fmtRgb24).zeroExtend 32
  | .pxRgb32 => (Config.imgCode Config.fmtRgb32).zeroExtend 32
  | .pxIdtex4 => (Config.imgCode Config.fmtIdtex4).zeroExtend 32
  | .pxIdtex8 => (Config.imgCode Config.fmtIdtex8).zeroExtend 32
  | .pxUnknown fmt => fmt.zeroExtend 32
  | .clRgb16 => (clutTypeByte 0 0 Config.fmtRgb16).zeroExtend 32
  | .clRgb24 => (clutTypeByte 0 0 Config.fmtRgb24).zeroExtend 32
  | .clRgb32 => (clutTypeByte 0 0 Config.fmtRgb32).zeroExtend 32
  | .clNone => (clutTypeByte 0 0 Config.fmtNone).zeroExtend 32
  | .clUnknown csm compound fmt => (clutTypeByte csm compound fmt).zeroExtend 32
  | .idxCompound => (clutTypeByte Config.csm1Value Config.compoundSet 0).zeroExtend 32
  | .idxLinear csm compound fmt => (clutTypeByte csm compound fmt).zeroExtend 32

/-! ### Words as bytes -/

/-- Why bytes hold no selector: the only reason, since every value of every group is decoded (R54, R61). -/
inductive DecodeError where
  /-- Fewer bytes than the format's word has. -/
  | tooShort
deriving DecidableEq, Repr

/-- How many bytes the word of a group has (R50, R52, R53). -/
def Group.bytes : Group → Nat
  | .cmd => 4
  | .imgFmt => 1
  | .clutFmt => 1
  | .clutIdx => 1

/-- Little-endian bytes as one number (R28, R31). -/
def fromBytes : List Byte → Nat
  | [] => 0
  | b :: bs => b.toNat + 256 * fromBytes bs

/-- The `n` lowest bytes of a number, lowest first. -/
def toBytes (w : Nat) : Nat → List Byte
  | 0 => []
  | n + 1 => BitVec.ofNat 8 w :: toBytes (w / 256) n

/-- Decode the first word of group `g` and give back the bytes after it. -/
def decodeBytes (g : Group) (bs : List Byte) : Except DecodeError (Instr × List Byte) :=
  if bs.length < g.bytes then .error .tooShort
  else .ok (decodeWord g (BitVec.ofNat 32 (fromBytes (bs.take g.bytes))), bs.drop g.bytes)

/-! ### The opcode table as data -/

/-- One row of spec/opcode_table.json: a word `w` selects it when `w AND mask = pattern` (R54). -/
structure Row where
  mnemonic : String
  mask : Word
  pattern : Word
deriving DecidableEq, Repr

/-- The rows of a group in the table's order, most specific first, the fallback last (R54). -/
def tableRows : Group → List Row
  | .cmd =>
    [⟨"DECODE_IMAGE", 0xFF, 0x01⟩, ⟨"GET_CLUT", 0xFF, 0x02⟩, ⟨"RESET", 0xFF, 0x7F⟩, ⟨"ILLEGAL", 0, 0⟩]
  | .imgFmt =>
    [⟨"PX.RGB16", 0xFF, 0x01⟩, ⟨"PX.RGB24", 0xFF, 0x02⟩, ⟨"PX.RGB32", 0xFF, 0x03⟩,
     ⟨"PX.IDTEX4", 0xFF, 0x04⟩, ⟨"PX.IDTEX8", 0xFF, 0x05⟩, ⟨"PX.UNKNOWN", 0, 0⟩]
  | .clutFmt =>
    [⟨"CL.RGB16", 0x3F, 0x01⟩, ⟨"CL.RGB24", 0x3F, 0x02⟩, ⟨"CL.RGB32", 0x3F, 0x03⟩,
     ⟨"CL.NONE", 0x3F, 0x00⟩, ⟨"CL.UNKNOWN", 0, 0⟩]
  | .clutIdx =>
    [⟨"IDX.COMPOUND", 0xC0, 0x40⟩, ⟨"IDX.LINEAR", 0, 0⟩]

/-- The mnemonic of an operation's row. -/
def Instr.mnemonic : Instr → String
  | .decodeImage _ => "DECODE_IMAGE"
  | .getClut => "GET_CLUT"
  | .reset => "RESET"
  | .illegal _ => "ILLEGAL"
  | .pxRgb16 => "PX.RGB16"
  | .pxRgb24 => "PX.RGB24"
  | .pxRgb32 => "PX.RGB32"
  | .pxIdtex4 => "PX.IDTEX4"
  | .pxIdtex8 => "PX.IDTEX8"
  | .pxUnknown _ => "PX.UNKNOWN"
  | .clRgb16 => "CL.RGB16"
  | .clRgb24 => "CL.RGB24"
  | .clRgb32 => "CL.RGB32"
  | .clNone => "CL.NONE"
  | .clUnknown _ _ _ => "CL.UNKNOWN"
  | .idxCompound => "IDX.COMPOUND"
  | .idxLinear _ _ _ => "IDX.LINEAR"

/-- The row a word selects: the first that matches (R54). -/
def selectedRow (g : Group) (w : Word) : Option Row :=
  (tableRows g).find? fun row => w &&& row.mask == row.pattern

/-! ### One word of the table, its group not named -/

/-- DESIGN CHOICE (log 12): a word of at most 8 bits selects one row in EVERY byte-wide group, and a bare number does not
say which group is meant. It is read in the first byte-wide group that has a row whose own `match` is that number, the groups
taken in the table's order; failing that as a command word if it is the opcode of one, and else as an image format byte. A
longer word is a command word, since the table gives only those more than 8 bits. -/
def groupOfTableWord (nbits w : Nat) : Group :=
  if nbits ≤ 8 then
    if (tableRows .imgFmt).any (·.pattern.toNat == w) then .imgFmt
    else if (tableRows .clutFmt).any (·.pattern.toNat == w) then .clutFmt
    else if (tableRows .clutIdx).any (·.pattern.toNat == w) then .clutIdx
    else if (tableRows .cmd).any (·.pattern.toNat == w) then .cmd
    else .imgFmt
  else .cmd

/-- The operation read from an instruction whose bits are `w` (log 12): the word's bytes, lowest first, given to
`decodeBytes`. No format is longer than 32 bits. -/
def decodeTableWord (nbits w : Nat) : Option Instr :=
  if 32 < nbits then none
  else
    let g := groupOfTableWord nbits (w % 2 ^ nbits)
    match decodeBytes g (toBytes (w % 2 ^ nbits) 4) with
    | .ok (i, _) => some i
    | .error _ => none

end Sys2Proof
end

