-- ==== Sys2Proof/Machine/Operands.lean ====
section
/-! DEFINITION. Pixel and palette data turned into Colors and indices (R56 to R59, R93, R97, R98, R113, R114, R119). -/

namespace Sys2Proof.Machine

/-- The three direct data formats, shared by image pixels and CLUT entries (30_encoding.md section 3). -/
inductive DirectFmt where
  | rgb32
  | rgb24
  | rgb16
deriving DecidableEq, Repr

/-- Bytes per pixel (R33) and `EntryBytes` (R119). -/
def DirectFmt.bytes : DirectFmt → Nat
  | .rgb32 => 4
  | .rgb24 => 3
  | .rgb16 => 2

/-- `Expand5` (R93): `(c << 3) | (c >> 2)` on 8 bits. -/
def expand5 (c : BitVec 5) : Byte := (c.zeroExtend 8 <<< 3) ||| (c.zeroExtend 8 >>> 2)

/-- Byte `k` of a datum. `memRead` gives exactly the bytes a format has, so the 0 is never used. -/
def datumByte (bs : List Byte) (k : Nat) : Byte := bs.getD k 0

/-- The little-endian 16-bit value of an RGB16 datum (R31, R58). -/
def rgb16Value (bs : List Byte) : BitVec 16 :=
  (datumByte bs 0).zeroExtend 16 ||| ((datumByte bs 1).zeroExtend 16 <<< 8)

/-- The Color of a 16-bit value with the fields of R58 (R97). -/
def rgb16Color (v : BitVec 16) : Color where
  r := expand5 (v.extractLsb' 0 5)
  g := expand5 (v.extractLsb' 5 5)
  b := expand5 (v.extractLsb' 10 5)
  a := if v.getLsbD 15 then 255 else 0

/-- `DirectColor` (R97) with the layouts of R56, R57, R58. -/
def directColor : DirectFmt → List Byte → Color
  | .rgb32, bs => ⟨datumByte bs 0, datumByte bs 1, datumByte bs 2, datumByte bs 3⟩
  | .rgb24, bs => ⟨datumByte bs 0, datumByte bs 1, datumByte bs 2, 255⟩
  | .rgb16, bs => rgb16Color (rgb16Value bs)

/-- `PaletteLookup` (R98). -/
def paletteLookup (pal : List Color) (i : Nat) : Color := pal.getD i Config.defaultColor

/-- The index of pixel `p` in its IDTEX4 byte (R59, R95): even pixel low nibble, odd pixel high nibble. -/
def nibbleIndex (b : Byte) (p : Nat) : Nat :=
  if p % 2 = 0 then (b.extractLsb' 0 4).toNat else (b.extractLsb' 4 4).toNat

/-- `Remap` under `IDX.COMPOUND` (R113). -/
def remapCompound (k : Nat) : Nat :=
  if 8 ≤ k % 32 ∧ k % 32 < 16 then k + 8
  else if 16 ≤ k % 32 ∧ k % 32 < 24 then k - 8
  else k

/-- `Remap` under `IDX.LINEAR` (R114). -/
def remapLinear (k : Nat) : Nat := k

/-- `Remap(K)` as bits 7:6 of the CLUT-type byte select it (R53, R113, R114). -/
def remap (clutType : Byte) (k : Nat) : Nat :=
  if isCompound (clutCsm clutType) (clutCompound clutType) then remapCompound k else remapLinear k

/-- The entry format bits 5:0 of the CLUT-type byte select, if they select one (R53, R112). -/
def entryFmt (clutType : Byte) : Option DirectFmt :=
  if clutFmt clutType = Config.fmtRgb32 then some .rgb32
  else if clutFmt clutType = Config.fmtRgb24 then some .rgb24
  else if clutFmt clutType = Config.fmtRgb16 then some .rgb16
  else none

/-- `PIC.IMG_FMT` is `FMT_IDTEX4` or `FMT_IDTEX8` (R77). -/
def isIndexed (imgFmt : Byte) : Bool :=
  imgFmt == Config.imgCode Config.fmtIdtex4 || imgFmt == Config.imgCode Config.fmtIdtex8

/-- A Color of `OUT` as the host reads it: `{a, b, g, r}` (R60). -/
def colorWord (c : Color) : Word := c.a ++ c.b ++ c.g ++ c.r

end Sys2Proof.Machine
end

