-- ==== Sys2Proof/Machine/Ops.lean ====
section
/-! DEFINITION. The shared operations: blobs, `MemRead`, `MemWrite`, the level's geometry, results, and fault entry and the
return from it. -/

namespace Sys2Proof.Machine

/-! ### Blobs -/

/-- The byte at an address, if the host has written it since reset. -/
def Memory.read : Memory → Nat → Option Byte
  | [], _ => none
  | (k, b) :: m, a => if a = k then some b else Memory.read m a

/-- Make `b` the byte at `a`, keeping the addresses rising. -/
def Memory.write : Memory → Nat → Byte → Memory
  | [], a, b => [(a, b)]
  | (k, c) :: m, a, b =>
    if a < k then (a, b) :: (k, c) :: m
    else if a = k then (a, b) :: m
    else (k, c) :: Memory.write m a b

/-- The canonical form: strictly rising addresses, each at least `low` and inside the capacity (D29). Every listed byte
differs from what an unlisted address holds, which is nothing. -/
def Memory.wfFrom : Nat → Memory → Bool
  | _, [] => true
  | low, (k, _) :: m => decide (low ≤ k) && decide (k < Config.blobCap) && Memory.wfFrom (k + 1) m

/-- The canonical form of a blob. -/
def Memory.wf (m : Memory) : Bool := Memory.wfFrom 0 m

/-- The bytes of a space (R30). -/
def State.blob (s : State) : Space → Memory
  | .img => s.img
  | .clut => s.clut

/-- The length of a space in bytes (R1, R16, R32). -/
def State.blobSize (s : State) : Space → Nat
  | .img => s.pic.imageSize.toNat
  | .clut => s.pic.clutSize.toNat

/-- The state with another blob in a space. -/
def State.withBlob (s : State) : Space → Memory → State
  | .img, m => { s with img := m }
  | .clut, m => { s with clut := m }

/-! ### What ends a command early -/

/-- What ends a command before its completion: an overrun (R134), or a byte the host has not written (R29, U7). -/
inductive Stop where
  | overrun (space : Space)
  | unwritten (space : Space) (addr : Nat)
deriving DecidableEq, Repr

/-- The `FAULT_CODE` of an overrun (R130). -/
def overrunCode : Space → FaultCode
  | .clut => .clutOverrun
  | .img => .imgOverrun

/-- FAULT ENTRY (R138), shared by every fault of R130: `STATUS` names the cause, the result is empty, no cursor is left,
nothing else changes. -/
def faultEntry (s : State) (code : FaultCode) : State :=
  { s with
    status := Status.faulted code
    resW := 0
    resH := 0
    resCount := 0
    out := []
    work := none }

/-- RETURN FROM A FAULT, and reset in general (R80, R139, R150): every item of R29 takes its reset value. The host's
accesses still to be served are outside the engine and stay (log 14). -/
def resetEngine (s : State) : State :=
  { State.reset with host := s.host, rdata := s.rdata, draws := s.draws }

/-- How a command ends on a stop. -/
def stopWith (s : State) : Stop → Host.Outcome State Fault Refusal
  | .overrun space => .next (faultEntry s (overrunCode space))
  | .unwritten space addr => .fault (.unwrittenByte space addr)

/-! ### MemRead and MemWrite -/

/-- The `n` bytes of a space from `addr` on, each of which the host must have written (R29, U7). -/
def readBytes (s : State) (space : Space) (addr : Nat) : Nat → Except Stop (List Byte)
  | 0 => .ok []
  | n + 1 =>
    match (s.blob space).read addr with
    | none => .error (.unwritten space addr)
    | some b => (readBytes s space (addr + 1) n).map (b :: ·)

/-- `MemRead` (R32): a read passing the end of the space overruns as a whole. -/
def memRead (s : State) (space : Space) (addr n : Nat) : Except Stop (List Byte) :=
  if s.blobSize space < addr + n then .error (.overrun space) else readBytes s space addr n

/-- `MemWrite(OUT, i, c)` (R37): entry `i` becomes `c`; no later entry exists yet. -/
def memWriteOut (s : State) (i : Nat) (c : Color) : State := { s with out := s.out.take i ++ [c] }

/-- Colors `f p`, `f (p+1)`, ..., `n` of them in ascending order; the first stop ends it (R74, R112, R137). -/
def collect (f : Nat → Except Stop Color) (p : Nat) : Nat → Except Stop (List Color)
  | 0 => .ok []
  | n + 1 =>
    match f p with
    | .error e => .error e
    | .ok c => (collect f (p + 1) n).map (c :: ·)

/-! ### The descriptor -/

/-- `hasClut()` (R19). -/
def Picture.hasClut (p : Picture) : Bool := p.clutSize != 0 && clutFmt p.clutType != Config.fmtNone

/-- `hasMipMaps()` (R19). -/
def Picture.hasMipMaps (p : Picture) : Bool := decide (1 < p.mipCount.toNat)

/-- What `PIC.MIP_SIZE[i]` holds (R18): the word the host wrote last since reset, or else the unspecified word of R29, a FREE
VALUE (log 2). -/
def Picture.mip (p : Picture) (i : Nat) : Word :=
  if p.mipWritten.getLsbD i then (p.mipSize[i]?).getD 0 else Config.freeMipSize i

/-- Write `PIC.MIP_SIZE[i]` (R18). -/
def Picture.setMip (p : Picture) (i : Nat) (v : Word) : Picture :=
  { p with
    mipSize := p.mipSize.setIfInBounds i v
    mipWritten := p.mipWritten ||| BitVec.twoPow Config.nMipRegs i }

/-- A dimension at a level (R72): `max(1, x >> L)`, the shift being the mathematical one. -/
def levelDim (x : BitVec 16) (level : BitVec 8) : Nat := max 1 (x.toNat >>> level.toNat)

/-- The width of a level (R72). -/
def Picture.levelW (p : Picture) (level : BitVec 8) : Nat := levelDim p.width level

/-- The height of a level (R72). -/
def Picture.levelH (p : Picture) (level : BitVec 8) : Nat := levelDim p.height level

/-- `PIC.MIP_SIZE[0] + ... + PIC.MIP_SIZE[n-1]` as a natural number (R73, R81). -/
def sumMips (p : Picture) : Nat → Nat
  | 0 => 0
  | n + 1 => sumMips p n + (p.mip n).toNat

/-- `LevelBase(L)` (R73). -/
def levelBase (p : Picture) (level : BitVec 8) : Nat :=
  if level = 0 ∨ p.hasMipMaps = false then 0 else sumMips p level.toNat

/-! ### Results -/

/-- The start of an accepted command (R21). -/
def startCommand (s : State) : State := { s with status := s.status.started }

/-- A completed command: `OUT`, `RES_*` and `DONE` (R22, R76, R110). No cursor is left (R25). -/
def deliver (s : State) (w h : Nat) (colors : List Color) : State :=
  { s with
    status := s.status.completed
    resW := BitVec.ofNat 16 w
    resH := BitVec.ofNat 16 h
    resCount := BitVec.ofNat 32 colors.length
    out := colors
    work := none }

/-- The state with `UNKNOWN_FMT` flagged when `unknown` holds. -/
def flagUnknown (s : State) (unknown : Bool) : State := { s with status := s.status.flagUnknown unknown }

/-- The empty result of an invalid level (R71). -/
def emptyResult (s : State) : State :=
  deliver { s with status := s.status.started.flagInvalidMip } 0 0 []

/-- A command's level names no level of the picture (R71). -/
def Picture.invalidLevel (p : Picture) (level : BitVec 8) : Bool := decide (p.mipCount.toNat ≤ level.toNat)

end Sys2Proof.Machine
end

