-- ==== Sys2Proof/Machine/Palette.lean ====
section
/-! DEFINITION. Palette decode (42_palette.md): `DecodePalette`, and the `IDX.*` and `CL.*` operations as the operations a
running command performs on its current palette entry (R112). -/

namespace Sys2Proof.Machine

/-- Raw entry `j` in an entry format: bytes `n*j` onwards (R33, R119), decoded by `DirectColor` (R97). -/
def clEntry (f : DirectFmt) (s : State) (j : Nat) : Except Stop Color :=
  (memRead s .clut (j * f.bytes) f.bytes).map (directColor f)

/-- `CL.RGB16` (R115). -/
def clRgb16 (s : State) (j : Nat) : Except Stop Color := clEntry .rgb16 s j

/-- `CL.RGB24` (R116). -/
def clRgb24 (s : State) (j : Nat) : Except Stop Color := clEntry .rgb24 s j

/-- `CL.RGB32` (R117). -/
def clRgb32 (s : State) (j : Nat) : Except Stop Color := clEntry .rgb32 s j

/-- The palette of `CL.UNKNOWN` (R118): `PIC.CLUT_COLORS` default colours. -/
def unknownPalette (s : State) : List Color := List.replicate s.pic.clutColors.toNat Config.defaultColor

/-- `DecodePalette()` (R111, R112), and whether it flags `UNKNOWN_FMT` (R118). -/
def decodePalette (s : State) : Except Stop (List Color × Bool) :=
  if s.pic.hasClut then
    match entryFmt s.pic.clutType with
    | none => .ok (unknownPalette s, true)
    | some f =>
      (collect (fun k => clEntry f s (remap s.pic.clutType k)) 0 s.pic.clutColors.toNat).map fun pal => (pal, false)
  else .ok ([], false)

/-- The current palette index is remapped by `f`: `j <- Remap(K)` (R112). -/
def indexStep (name : String) (f : Nat → Nat) (s : State) : Host.Outcome State Fault Refusal :=
  match s.work with
  | some (.palIndex goal k pal) =>
    if k < s.pic.clutColors.toNat then .next { s with work := some (.palEntry goal k (f k) pal) }
    else .refused (.outsideCommand name)
  | _ => .refused (.outsideCommand name)

/-- `IDX.COMPOUND` (R113). -/
def execIdxCompound (s : State) : Host.Outcome State Fault Refusal := indexStep "IDX.COMPOUND" remapCompound s

/-- `IDX.LINEAR` (R114): the index unchanged, whatever the other bits of the byte are. -/
def execIdxLinear (_csm _compound : BitVec 1) (_fmt : BitVec 6) (s : State) : Host.Outcome State Fault Refusal :=
  indexStep "IDX.LINEAR" remapLinear s

/-- The raw entry in hand is read and becomes the next entry of `PAL`; `K` advances by one (R112). -/
def entryStep (name : String) (op : Nat → Except Stop Color) (s : State) : Host.Outcome State Fault Refusal :=
  match s.work with
  | some (.palEntry goal k j pal) =>
    match op j with
    | .error e => stopWith s e
    | .ok c => .next { s with work := some (.palIndex goal (k + 1) (pal ++ [c])) }
  | _ => .refused (.outsideCommand name)

/-- `CL.RGB16` on the raw entry in hand (R115). -/
def execClRgb16 (s : State) : Host.Outcome State Fault Refusal := entryStep "CL.RGB16" (clRgb16 s) s

/-- `CL.RGB24` on the raw entry in hand (R116). -/
def execClRgb24 (s : State) : Host.Outcome State Fault Refusal := entryStep "CL.RGB24" (clRgb24 s) s

/-- `CL.RGB32` on the raw entry in hand (R117). -/
def execClRgb32 (s : State) : Host.Outcome State Fault Refusal := entryStep "CL.RGB32" (clRgb32 s) s

/-- `PAL` is the given palette as a whole (R111, R118). -/
def wholePalette (name : String) (unknown : Bool) (pal : List Color) (s : State) : Host.Outcome State Fault Refusal :=
  match s.work with
  | some (.palSelect goal) => .next { flagUnknown s unknown with work := some (.ready goal pal) }
  | _ => .refused (.outsideCommand name)

/-- `CL.NONE` (R111): the palette is empty, nothing is read, no flag is set. -/
def execClNone (s : State) : Host.Outcome State Fault Refusal := wholePalette "CL.NONE" false [] s

/-- `CL.UNKNOWN` (R118): default colours and the flag, nothing is read. -/
def execClUnknown (_csm _compound : BitVec 1) (_fmt : BitVec 6) (s : State) : Host.Outcome State Fault Refusal :=
  wholePalette "CL.UNKNOWN" true (unknownPalette s) s

end Sys2Proof.Machine
end

