-- ==== Sys2Proof/Machine/Pixel.lean ====
section
/-! DEFINITION. The pixel operations `PX.*` (41_pixel_formats.md): each as a function of the level base, the pixel index and
the palette, and as the operation a running `DECODE_IMAGE` performs on its current pixel (R74). -/

namespace Sys2Proof.Machine

/-- One pixel of a direct format: bytes `base + n*P` onwards (R33), decoded by `DirectColor` (R97). -/
def directPixel (f : DirectFmt) (s : State) (base p : Nat) : Except Stop Color :=
  (memRead s .img (base + f.bytes * p) f.bytes).map (directColor f)

/-- `PX.RGB32` (R90). -/
def pxRgb32 (s : State) (base p : Nat) : Except Stop Color := directPixel .rgb32 s base p

/-- `PX.RGB24` (R91). -/
def pxRgb24 (s : State) (base p : Nat) : Except Stop Color := directPixel .rgb24 s base p

/-- `PX.RGB16` (R92). -/
def pxRgb16 (s : State) (base p : Nat) : Except Stop Color := directPixel .rgb16 s base p

/-- `PX.IDTEX8` (R94): the index byte is fetched even where there is no palette. -/
def pxIdtex8 (s : State) (base p : Nat) (pal : List Color) : Except Stop Color :=
  (memRead s .img (base + p) 1).map fun bs => paletteLookup pal (datumByte bs 0).toNat

/-- `PX.IDTEX4` (R95). -/
def pxIdtex4 (s : State) (base p : Nat) (pal : List Color) : Except Stop Color :=
  (memRead s .img (base + p / 2) 1).map fun bs => paletteLookup pal (nibbleIndex (datumByte bs 0) p)

/-- The Color `PX.UNKNOWN` gives (R96). -/
def pxUnknown : Except Stop Color := .ok Config.defaultColor

/-- `PixelAt(base, P)`: the dispatch on `PIC.IMG_FMT` (R75). -/
def pixelAt (s : State) (base : Nat) (pal : List Color) (p : Nat) : Except Stop Color :=
  if s.pic.imgFmt = Config.imgCode Config.fmtRgb32 then pxRgb32 s base p
  else if s.pic.imgFmt = Config.imgCode Config.fmtRgb24 then pxRgb24 s base p
  else if s.pic.imgFmt = Config.imgCode Config.fmtRgb16 then pxRgb16 s base p
  else if s.pic.imgFmt = Config.imgCode Config.fmtIdtex8 then pxIdtex8 s base p pal
  else if s.pic.imgFmt = Config.imgCode Config.fmtIdtex4 then pxIdtex4 s base p pal
  else pxUnknown

/-- One turn of the pixel loop (R74): the current pixel's Color becomes `OUT[P]` and `P` advances by one; `unknown` flags
`UNKNOWN_FMT`. Where no pixel is current the operation has no operands (log 16). -/
def pixelStep (name : String) (unknown : Bool) (op : Nat → Nat → List Color → Except Stop Color) (s : State) :
    Host.Outcome State Fault Refusal :=
  match s.work with
  | some (.pixels w h base p pal) =>
    if p < w * h then
      match op base p pal with
      | .error e => stopWith s e
      | .ok c => .next { memWriteOut (flagUnknown s unknown) p c with work := some (.pixels w h base (p + 1) pal) }
    else .refused (.outsideCommand name)
  | _ => .refused (.outsideCommand name)

/-- `PX.RGB16` on the current pixel (R92). -/
def execPxRgb16 (s : State) : Host.Outcome State Fault Refusal :=
  pixelStep "PX.RGB16" false (fun base p _ => pxRgb16 s base p) s

/-- `PX.RGB24` on the current pixel (R91). -/
def execPxRgb24 (s : State) : Host.Outcome State Fault Refusal :=
  pixelStep "PX.RGB24" false (fun base p _ => pxRgb24 s base p) s

/-- `PX.RGB32` on the current pixel (R90). -/
def execPxRgb32 (s : State) : Host.Outcome State Fault Refusal :=
  pixelStep "PX.RGB32" false (fun base p _ => pxRgb32 s base p) s

/-- `PX.IDTEX4` on the current pixel (R95). -/
def execPxIdtex4 (s : State) : Host.Outcome State Fault Refusal :=
  pixelStep "PX.IDTEX4" false (pxIdtex4 s) s

/-- `PX.IDTEX8` on the current pixel (R94). -/
def execPxIdtex8 (s : State) : Host.Outcome State Fault Refusal :=
  pixelStep "PX.IDTEX8" false (pxIdtex8 s) s

/-- `PX.UNKNOWN` on the current pixel (R96): the default colour whatever the byte is, and the flag. -/
def execPxUnknown (_fmt : BitVec 8) (s : State) : Host.Outcome State Fault Refusal :=
  pixelStep "PX.UNKNOWN" true (fun _ _ _ => pxUnknown) s

end Sys2Proof.Machine
end

