-- ==== Sys2Proof/Machine/Command.lean ====
section
/-! DEFINITION. The commands (R51): each whole, as one step (R38). -/

namespace Sys2Proof.Machine

/-- The palette an image format needs (R77): none is decoded for a direct or an unknown format. -/
def imagePalette (s : State) : Except Stop (List Color × Bool) :=
  if isIndexed s.pic.imgFmt then decodePalette s else .ok ([], false)

/-- The Colors of a valid level, in order, and whether `UNKNOWN_FMT` is flagged: the base, the palette, the pixels (R70, R137
steps 4 to 6). -/
def decodeLevel (s : State) (level : BitVec 8) : Except Stop (List Color × Bool) :=
  let base := levelBase s.pic level
  match imagePalette s with
  | .error e => .error e
  | .ok (pal, unknownClut) =>
    (collect (pixelAt s base pal) 0 (s.pic.levelW level * s.pic.levelH level)).map fun colors =>
      (colors, unknownClut || !isImgCode s.pic.imgFmt)

/-- `DECODE_IMAGE` (R70): refused while faulted (R78), the empty result on an invalid level (R71), otherwise the level
decoded into `OUT` (R76), or fault entry (R138). -/
def execDecodeImage (level : BitVec 8) (s : State) : Host.Outcome State Fault Refusal :=
  if s.status.fault then .next s
  else if s.pic.invalidLevel level then .next (emptyResult s)
  else
    match decodeLevel s level with
    | .error e => stopWith s e
    | .ok (colors, unknown) =>
      .next (deliver (flagUnknown (startCommand s) unknown) (s.pic.levelW level) (s.pic.levelH level) colors)

/-- `GET_CLUT` (R110): refused while faulted (R78), otherwise the palette into `OUT`, or fault entry (R138). -/
def execGetClut (s : State) : Host.Outcome State Fault Refusal :=
  if s.status.fault then .next s
  else
    match decodePalette s with
    | .error e => stopWith s e
    | .ok (pal, unknown) => .next (deliver (flagUnknown (startCommand s) unknown) 0 0 pal)

/-- `RESET` (R80): accepted whether or not `STATUS.FAULT` is set. -/
def execReset (s : State) : Host.Outcome State Fault Refusal := .next (resetEngine s)

/-- `ILLEGAL` (R135): the fault `IllegalCommand`, or refused while faulted like any other command. -/
def execIllegal (_op : BitVec 8) (s : State) : Host.Outcome State Fault Refusal :=
  if s.status.fault then .next s else .next (faultEntry s .illegalCmd)

end Sys2Proof.Machine
end

