-- ==== Sys2Proof/Machine/Dispatch.lean ====
section
/-! DEFINITION. One arm per row of the opcode table, each the direct call of its meaning. -/

namespace Sys2Proof.Machine

def exec (i : Instr) (s : State) : Host.Outcome State Fault Refusal :=
  match i with
  | .decodeImage level => Sys2Proof.Machine.execDecodeImage level s
  | .getClut => Sys2Proof.Machine.execGetClut s
  | .reset => Sys2Proof.Machine.execReset s
  | .illegal op => Sys2Proof.Machine.execIllegal op s
  | .pxRgb16 => Sys2Proof.Machine.execPxRgb16 s
  | .pxRgb24 => Sys2Proof.Machine.execPxRgb24 s
  | .pxRgb32 => Sys2Proof.Machine.execPxRgb32 s
  | .pxIdtex4 => Sys2Proof.Machine.execPxIdtex4 s
  | .pxIdtex8 => Sys2Proof.Machine.execPxIdtex8 s
  | .pxUnknown fmt => Sys2Proof.Machine.execPxUnknown fmt s
  | .clRgb16 => Sys2Proof.Machine.execClRgb16 s
  | .clRgb24 => Sys2Proof.Machine.execClRgb24 s
  | .clRgb32 => Sys2Proof.Machine.execClRgb32 s
  | .clNone => Sys2Proof.Machine.execClNone s
  | .clUnknown csm compound fmt => Sys2Proof.Machine.execClUnknown csm compound fmt s
  | .idxCompound => Sys2Proof.Machine.execIdxCompound s
  | .idxLinear csm compound fmt => Sys2Proof.Machine.execIdxLinear csm compound fmt s

end Sys2Proof.Machine
end

