-- ==== Sys2Proof/Machine/HostPort.lean ====
section
/-! DEFINITION. What a host access does: the register map and the apertures (R28, R39). -/

namespace Sys2Proof.Machine

/-- The registers of the map of R28; `reserved` is every offset it does not list. -/
inductive Register where
  | cmd
  | status
  | resDim
  | resCount
  | picDim
  | picFmt
  | picClutColors
  | picImageSize
  | picClutSize
  | picMipSize (i : Nat)
  | reserved
deriving DecidableEq, Repr

/-- The register at a byte offset (R28). An offset that is not that of an aligned word is listed for none (log 21). -/
def registerAt (offset : Word) : Register :=
  if offset = 0x000 then .cmd
  else if offset = 0x004 then .status
  else if offset = 0x008 then .resDim
  else if offset = 0x00C then .resCount
  else if offset = 0x010 then .picDim
  else if offset = 0x014 then .picFmt
  else if offset = 0x018 then .picClutColors
  else if offset = 0x01C then .picImageSize
  else if offset = 0x020 then .picClutSize
  else if 0x400 ≤ offset.toNat ∧ offset.toNat < 0x400 + 4 * Config.nMipRegs ∧ offset.toNat % 4 = 0 then
    .picMipSize ((offset.toNat - 0x400) / 4)
  else .reserved

/-- A word written to a descriptor register (R28): reserved bits are ignored. -/
def writePic (p : Picture) (v : Word) : Register → Picture
  | .picDim => { p with width := v.extractLsb' 0 16, height := v.extractLsb' 16 16 }
  | .picFmt =>
    { p with imgFmt := v.extractLsb' 0 8, clutType := v.extractLsb' 8 8, mipCount := v.extractLsb' 16 8 }
  | .picClutColors => { p with clutColors := v.extractLsb' 0 16 }
  | .picImageSize => { p with imageSize := v }
  | .picClutSize => { p with clutSize := v }
  | .picMipSize i => p.setMip i v
  | .cmd => p
  | .status => p
  | .resDim => p
  | .resCount => p
  | .reserved => p

/-- A host write (R28): `CMD` takes a command (R20), the descriptor registers take the value, the read-only registers and
reserved offsets ignore it. -/
def writeReg (s : State) (v : Word) : Register → State
  | .cmd => { s with cmd := some v }
  | r => { s with pic := writePic s.pic v r }

/-- The word a host read of a register returns (R28); of a `PIC.MIP_SIZE[i]` the host has not written since reset, the word
that is unspecified (R29, log 3). -/
def readReg (s : State) : Register → Word
  | .cmd => 0
  | .status => s.status.toWord
  | .resDim => s.resH ++ s.resW
  | .resCount => s.resCount
  | .picDim => s.pic.height ++ s.pic.width
  | .picFmt => (0 : BitVec 8) ++ s.pic.mipCount ++ s.pic.clutType ++ s.pic.imgFmt
  | .picClutColors => s.pic.clutColors.zeroExtend 32
  | .picImageSize => s.pic.imageSize
  | .picClutSize => s.pic.clutSize
  | .picMipSize i => s.pic.mip i
  | .reserved => 0

/-- A host read of `OUT` returns the word there is, or else a fresh FREE VALUE (R24, U6; log 6). -/
def answer (s : State) : Option Word → State
  | some w => { s with rdata := w }
  | none => { s with rdata := Config.freeWord s.draws, draws := s.draws + 1 }

/-- A byte written through an aperture (R23, R28). Any address a blob can have is taken, whatever the size register holds
now, because bytes and sizes may be written in any order (R152, log 7). -/
def serveWriteBlob (s : State) (space : Space) (addr : Nat) (b : Byte) : Host.Outcome State Fault Refusal :=
  if addr < Config.blobCap then .next (s.withBlob space ((s.blob space).write addr b))
  else .fault (.hostOutside space addr)

/-- A byte read through an aperture (R23, R28): an address outside the space, or a byte never written, stops (U7, log 8). -/
def serveReadBlob (s : State) (space : Space) (addr : Nat) : Host.Outcome State Fault Refusal :=
  if addr < s.blobSize space then
    match (s.blob space).read addr with
    | none => .fault (.unwrittenByte space addr)
    | some b => .next { s with rdata := b.zeroExtend 32 }
  else .fault (.hostOutside space addr)

/-- One host event served (R39). -/
def serve (s : State) : HostEvent → Host.Outcome State Fault Refusal
  | .write offset v => .next (writeReg s v (registerAt offset))
  | .read offset => .next { s with rdata := readReg s (registerAt offset) }
  | .writeBlob space addr b => serveWriteBlob s space addr.toNat b
  | .readBlob space addr => serveReadBlob s space addr.toNat
  | .readOut index => .next (answer s ((s.out[index.toNat]?).map colorWord))
  | .rst => .next (resetEngine s)

end Sys2Proof.Machine
end

