-- ==== Sys2Proof/Machine/Fetch.lean ====
section
/-! DEFINITION. What a step does next: a pending command, the next operation of a command followed operation by operation
(log 9), or the next host access (R38, R39). -/

namespace Sys2Proof.Machine

/-- What a step finds to do. -/
inductive Fetched where
  /-- Run this operation in this state. -/
  | run (i : Instr) (s : State)
  /-- No operation is run: a host access, the command's own control, or waiting. -/
  | other (o : Host.Outcome State Fault Refusal)

/-- The level's dimensions and base are computed (R72, R73), before the palette (R70); then a palette is decoded where the
format needs one (R77). -/
def enterLevel (s : State) (level : BitVec 8) : State :=
  let goal := Goal.image (s.pic.levelW level) (s.pic.levelH level) (levelBase s.pic level)
  { s with work := some (if isIndexed s.pic.imgFmt then .palSelect goal else .ready goal []) }

/-- The palette is complete (R77, R110): `GET_CLUT` delivers it, `DECODE_IMAGE` goes on to its pixels, `OUT` starting anew
(R74). -/
def paletteReady (s : State) (pal : List Color) : Goal → Host.Outcome State Fault Refusal
  | .clut => .next (deliver s 0 0 pal)
  | .image w h base => .next { s with out := [], work := some (.pixels w h base 0 pal) }

/-- The next operation of a running command, read from the selector the loop has come to (R41, R75, R112), or the command's
own control where a loop begins or ends. -/
def fetchWork (s : State) : Work → Fetched
  | .enterLevel level => .other (.next (enterLevel s level))
  | .palSelect goal =>
    if s.pic.hasClut = false then .run .clNone s
    else
      match entryFmt s.pic.clutType with
      | none => .run (decodeClutFmt s.pic.clutType) s
      | some _ => .other (.next { s with work := some (.palIndex goal 0 []) })
  | .palIndex goal k pal =>
    if k < s.pic.clutColors.toNat then .run (decodeClutIdx s.pic.clutType) s
    else .other (.next { s with work := some (.ready goal pal) })
  | .palEntry _ _ _ _ => .run (decodeClutFmt s.pic.clutType) s
  | .ready goal pal => .other (paletteReady s pal goal)
  | .pixels w h _ p _ =>
    if p < w * h then .run (decodeImgFmt s.pic.imgFmt) s
    else .other (.next (deliver s w h s.out))

/-- Between commands: the pending command, else the next host access, else the engine waits (R39, R150). -/
def fetchIdle (s : State) : Fetched :=
  match s.cmd with
  | some w => .run (decodeCmd w) { s with cmd := none }
  | none =>
    match s.host with
    | [] => .other (.next s)
    | e :: rest => .other (serve { s with host := rest } e)

/-- What a step does next. The reset input comes before everything: it abandons a pending or running command (R150, log 10).
No host access is served while a command is pending or running (R38). -/
def fetch (s : State) : Fetched :=
  match s.host with
  | .rst :: rest => .other (serve { s with host := rest } .rst)
  | _ =>
    match s.work with
    | some w => fetchWork s w
    | none => fetchIdle s

/-! ### A command followed operation by operation -/

/-- `DECODE_IMAGE` just accepted on a valid level, before its first operation (R70). -/
def beginDecode (level : BitVec 8) (s : State) : State := { startCommand s with work := some (.enterLevel level) }

/-- `GET_CLUT` just accepted, before its first operation (R110). -/
def beginGetClut (s : State) : State := { startCommand s with work := some (.palSelect .clut) }

/-! ### Placing one operation where it is fetched next -/

/-- A running command whose next operation is a pixel: the one there is, or else a level of one pixel. -/
def pixelWork : Option Work → Work
  | some (.pixels w h base p pal) => if p < w * h then .pixels w h base p pal else .pixels 1 1 0 0 []
  | _ => .pixels 1 1 0 0 []

/-- A running command whose next operation remaps an index: the one there is, or else the first of `GET_CLUT`. -/
def indexWork (colors : Nat) : Option Work → Work
  | some (.palIndex goal k pal) => if k < colors then .palIndex goal k pal else .palIndex .clut 0 []
  | _ => .palIndex .clut 0 []

/-- A running command whose next operation reads an entry: the one there is, or else the first of `GET_CLUT`. -/
def entryWork : Option Work → Work
  | some (.palEntry goal k j pal) => .palEntry goal k j pal
  | _ => .palEntry .clut 0 0 []

/-- A running command that is about to classify its palette: the one there is, or else `GET_CLUT`. -/
def selectWork : Option Work → Work
  | some (.palSelect goal) => .palSelect goal
  | _ => .palSelect .clut

/-- The selector byte `b` put where the loop reads it next, and the loop brought there (log 12): `CL` and `IDX` operations
are selected only where there are entries to decode (R112). -/
def placeByte (s : State) (b : Byte) : Instr → State
  | .clNone => { s with pic := { s.pic with clutType := b }, work := some (selectWork s.work) }
  | .clUnknown _ _ _ =>
    { s with
      pic := { s.pic with clutType := b, clutSize := if s.pic.clutSize = 0 then 1 else s.pic.clutSize }
      work := some (selectWork s.work) }
  | i =>
    match i.group with
    | .imgFmt => { s with pic := { s.pic with imgFmt := b }, work := some (pixelWork s.work) }
    | .clutFmt => { s with pic := { s.pic with clutType := b }, work := some (entryWork s.work) }
    | .clutIdx =>
      let colors := if s.pic.clutColors = 0 then 1 else s.pic.clutColors
      { s with
        pic := { s.pic with clutType := b, clutColors := colors }
        work := some (indexWork colors.toNat s.work) }
    | .cmd => s

/-- The word `w` of operation `i` put where the next step fetches it: a command in `CMD`, a selector in its register. A reset
input that would come first is taken away. -/
def place (s : State) (w : Nat) (i : Instr) : State :=
  let t := { s with host := s.host.dropWhile fun e => e == .rst }
  if i.group = .cmd then { t with work := none, cmd := some (BitVec.ofNat 32 w) }
  else placeByte t (BitVec.ofNat 8 w) i

end Sys2Proof.Machine
end

