-- ==== Sys2Proof/Machine/Step.lean ====
section
/-! DEFINITION. One step of the machine. -/

namespace Sys2Proof.Machine

/-- One step: the operation that is fetched, or what is done without one. A whole command is one step (R38). -/
def step (s : State) : Host.Outcome State Fault Refusal :=
  match fetch s with
  | .run i t => exec i t
  | .other o => o

/-- `s` with the instruction whose bits are `w` placed where `step` fetches its next one (log 11, log 12). -/
def State.withFetchWord (s : State) (nbits w : Nat) : State :=
  match decodeTableWord nbits w with
  | some i => place s (w % 2 ^ nbits) i
  | none => s

end Sys2Proof.Machine
end

