-- ==== Sys2Proof/Safety.lean ====
section
/-! DEFINITION. The terms claims are stated in: what a blob holds, which inputs keep quiet, runs of steps, and the invariant
of the machine. -/

namespace Sys2Proof.Machine

/-- The bytes of a blob from `base` on, `n` of them, are those of `data`. -/
abbrev Memory.holds (m : Memory) (base n : Nat) (data : Nat → Byte) : Prop :=
  ∀ k, k < n → m.read (base + k) = some (data k)

/-- Every byte below `n` has been written since reset. -/
abbrev Memory.written (m : Memory) (n : Nat) : Prop := ∀ a, a < n → m.read a ≠ none

/-- The format code of a direct data format (R3, R52, R53). -/
def DirectFmt.code : DirectFmt → BitVec 6
  | .rgb32 => Config.fmtRgb32
  | .rgb24 => Config.fmtRgb24
  | .rgb16 => Config.fmtRgb16

/-- The pixel operation of a direct format (R52). -/
def DirectFmt.pixelOp : DirectFmt → Instr
  | .rgb32 => .pxRgb32
  | .rgb24 => .pxRgb24
  | .rgb16 => .pxRgb16

/-- The palette-entry operation of a direct format (R53). -/
def DirectFmt.entryOp : DirectFmt → Instr
  | .rgb32 => .clRgb32
  | .rgb24 => .clRgb24
  | .rgb16 => .clRgb16

/-- The datum number `p` of a packed run of a direct format (R33). -/
def DirectFmt.datum (f : DirectFmt) (data : Nat → Byte) (p : Nat) : List Byte :=
  (List.range f.bytes).map fun k => data (f.bytes * p + k)

/-- The reset input is not the next thing to arrive (R150). -/
abbrev State.noReset (s : State) : Prop := s.host.head? ≠ some .rst

/-- Everything a command other than `RESET` leaves alone (R2): the inputs, and what is the host's. -/
abbrev State.sameInputs (s t : State) : Prop :=
  t.pic = s.pic ∧ t.img = s.img ∧ t.clut = s.clut ∧ t.host = s.host ∧ t.rdata = s.rdata ∧ t.draws = s.draws

/-- A fault-free completion with the given result (R22, R76). -/
def State.completedWith (t : State) (w h : Nat) (out : List Color) (unknown : Bool) : Prop :=
  t.out = out ∧ t.resW.toNat = w ∧ t.resH.toNat = h ∧ t.resCount.toNat = out.length ∧ t.work = none ∧
  t.status.done = true ∧ t.status.fault = false ∧ t.status.invalidMip = false ∧ t.status.unknownFmt = unknown

/-- `n` steps, stopping at the first fault or refusal. -/
def runSteps : Nat → State → Host.Outcome State Fault Refusal
  | 0, s => .next s
  | n + 1, s =>
    match step s with
    | .next t => runSteps n t
    | .fault r => .fault r
    | .refused r => .refused r

/-- What R21 and R137 say of the fields of `STATUS` together. -/
def Status.consistent (t : Status) : Prop :=
  (t.fault = true → t.done = false ∧ t.invalidMip = false ∧ t.unknownFmt = false) ∧
  (t.fault = true ↔ t.faultCode ≠ .none) ∧
  ¬ (t.invalidMip = true ∧ t.unknownFmt = true)

/-- A level's dimensions are in the range of R72. -/
def Goal.inRange : Goal → Prop
  | .clut => True
  | .image w h _ => 1 ≤ w ∧ w ≤ 65535 ∧ 1 ≤ h ∧ h ≤ 65535

/-- The cursors of a running command are in the ranges of R25 and what is decoded so far has their length. -/
def State.workInRange (s : State) : Work → Prop
  | .enterLevel _ => True
  | .palSelect goal => goal.inRange
  | .palIndex goal k pal => goal.inRange ∧ pal.length = k ∧ k ≤ s.pic.clutColors.toNat
  | .palEntry goal k _ pal => goal.inRange ∧ pal.length = k ∧ k < s.pic.clutColors.toNat
  | .ready goal pal => goal.inRange ∧ pal.length ≤ 65535
  | .pixels w h _ p pal =>
    (1 ≤ w ∧ w ≤ 65535 ∧ 1 ≤ h ∧ h ≤ 65535) ∧ p ≤ w * h ∧ s.out.length = p ∧ pal.length ≤ 65535

/-- The invariant of the machine. -/
structure State.Inv (s : State) : Prop where
  /-- Both blobs keep their canonical form. -/
  imgWf : s.img.wf = true
  clutWf : s.clut.wf = true
  /-- The flags of `STATUS` fit together (R21, R137). -/
  status : s.status.consistent
  /-- Between commands `OUT` has `RES_COUNT` entries, an image's count is its width times its height, and a palette or an
  empty result has no dimensions (R22, R24). -/
  result : s.work = none → s.out.length = s.resCount.toNat ∧
    (s.resW.toNat * s.resH.toNat = s.resCount.toNat ∨ s.resW = 0 ∧ s.resH = 0)
  /-- The faulted state has no result (R138). -/
  faulted : s.status.fault = true → s.out = [] ∧ s.resW = 0 ∧ s.resH = 0 ∧ s.resCount = 0 ∧ s.work = none
  /-- While a command is followed no per-command flag but `UNKNOWN_FMT` is set (R21), and its cursors are in range. -/
  running : ∀ w, s.work = some w →
    s.status.done = false ∧ s.status.fault = false ∧ s.status.invalidMip = false ∧ s.workInRange w

end Sys2Proof.Machine
end

