-- ==== Sys2Proof/Certificates/Slice0/Obligations.lean ====
section
/-! DEFINITION. The statements for the provers. Each docstring names the rule of spec/ it formalises. -/

open Sys2Proof Sys2Proof.Machine

/-! ### Encoding and decoding -/

/-- Words written out bit by bit from R50 to R53 decode to the operations they stand for. -/
def Obligations.DecodeSelectedWords : Prop :=
  decodeWord .cmd 0b00000000000000000000001000000001 = .decodeImage 2 ∧
  decodeWord .cmd 0b11111111111111110000000100000010 = .getClut ∧
  decodeWord .cmd 0b00000000000000000000000001111111 = .reset ∧
  decodeWord .cmd 0b00000000000000000000000000000011 = .illegal 3 ∧
  decodeWord .imgFmt 0b00000100 = .pxIdtex4 ∧
  decodeWord .imgFmt 0b01000001 = .pxUnknown 0x41 ∧
  decodeWord .clutFmt 0b11000010 = .clRgb24 ∧
  decodeWord .clutFmt 0b10000101 = .clUnknown 1 0 5 ∧
  decodeWord .clutIdx 0b01000011 = .idxCompound ∧
  decodeWord .clutIdx 0b11000011 = .idxLinear 1 1 3

/-- R50 to R53: no operand is lost on the way through the encoder and the decoder. -/
def Obligations.DecodeEncode : Prop :=
  ∀ i : Instr, i.wellFormed = true → decodeWord i.group (encode i) = i

/-- R54: in each group every word selects exactly the first row of the table that it matches, and the operation decoded is a
well-formed one of that row. -/
def Obligations.DecodeFirstRow : Prop :=
  ∀ (g : Group) (w : Word),
    (selectedRow g w).map Row.mnemonic = some (decodeWord g w).mnemonic ∧
    (decodeWord g w).group = g ∧ (decodeWord g w).wellFormed = true

/-- R51, R61: a command word decodes to `ILLEGAL` exactly when its opcode is none of the three, whatever its other bits are,
and only `DECODE_IMAGE` looks at bits 15:8. -/
def Obligations.CommandWordFields : Prop :=
  ∀ w : Word,
    (w.toNat % 256 = 0x01 → decodeCmd w = .decodeImage (BitVec.ofNat 8 (w.toNat / 256))) ∧
    (w.toNat % 256 = 0x02 → decodeCmd w = .getClut) ∧
    (w.toNat % 256 = 0x7F → decodeCmd w = .reset) ∧
    (w.toNat % 256 ≠ 0x01 → w.toNat % 256 ≠ 0x02 → w.toNat % 256 ≠ 0x7F →
      decodeCmd w = .illegal (BitVec.ofNat 8 w.toNat))

/-! ### Data -/

/-- R93: `Expand5`, its table, its ends, and that it is strictly increasing. -/
def Obligations.Expand5Table : Prop :=
  (∀ c : BitVec 5, (expand5 c).toNat = (c.toNat * 8) ||| (c.toNat / 4)) ∧
  ((List.range 32).map fun c => (expand5 (BitVec.ofNat 5 c)).toNat) =
    [0, 8, 16, 24, 33, 41, 49, 57, 66, 74, 82, 90, 99, 107, 115, 123,
     132, 140, 148, 156, 165, 173, 181, 189, 198, 206, 214, 222, 231, 239, 247, 255] ∧
  (∀ c d : BitVec 5, c < d → expand5 c < expand5 d)

/-- R97 with the layouts of R56, R57, R58: the channels of each direct format as numbers. -/
def Obligations.DirectColorChannels : Prop :=
  ∀ b0 b1 b2 b3 : Byte,
    directColor .rgb32 [b0, b1, b2, b3] = ⟨b0, b1, b2, b3⟩ ∧
    directColor .rgb24 [b0, b1, b2] = ⟨b0, b1, b2, 255⟩ ∧
    let v := b0.toNat + 256 * b1.toNat
    let c := directColor .rgb16 [b0, b1]
    c.r = expand5 (BitVec.ofNat 5 v) ∧
    c.g = expand5 (BitVec.ofNat 5 (v / 32)) ∧
    c.b = expand5 (BitVec.ofNat 5 (v / 1024)) ∧
    c.a = if v / 32768 = 1 then 255 else 0

/-- R98: the entry in range, the default colour out of range. -/
def Obligations.PaletteLookupInAndOut : Prop :=
  ∀ (pal : List Color) (i : Nat),
    (∀ h : i < pal.length, paletteLookup pal i = pal[i]) ∧
    (pal.length ≤ i → paletteLookup pal i = ⟨0, 0, 0, 0⟩)

/-- R113: `IDX.COMPOUND` swaps the two middle eights of every block of 32, inverts bits 4:3 exactly where they differ, never
leaves the block, and undoes itself. -/
def Obligations.RemapCompoundSwaps : Prop :=
  ∀ k : Nat,
    (8 ≤ k % 32 → k % 32 < 16 → remapCompound k = k + 8) ∧
    (16 ≤ k % 32 → k % 32 < 24 → remapCompound k + 8 = k) ∧
    (k % 32 < 8 ∨ 24 ≤ k % 32 → remapCompound k = k) ∧
    ((k / 8) % 4 = 1 ∨ (k / 8) % 4 = 2 → remapCompound k = k ^^^ 0x18) ∧
    remapCompound k / 32 = k / 32 ∧ remapCompound k % 8 = k % 8 ∧
    remapCompound (remapCompound k) = k

/-- R53, R113, R114: bits 7:6 of the CLUT-type byte alone select the remap: compound for `01`, none for `00`, `10`, `11`. -/
def Obligations.RemapSelection : Prop :=
  ∀ (b : Byte) (k : Nat),
    (b.toNat / 64 = 1 → remap b k = remapCompound k) ∧
    (b.toNat / 64 ≠ 1 → remap b k = k)

/-- R19: the two predicates over the descriptor. -/
def Obligations.DescriptorPredicates : Prop :=
  ∀ p : Picture,
    (p.hasClut = true ↔ 0 < p.clutSize.toNat ∧ p.clutType.toNat % 64 ≠ 0) ∧
    (p.hasMipMaps = true ↔ 1 < p.mipCount.toNat)

/-! ### Memory -/

/-- R32, with U7: a read passing the end of the space overruns as a whole; otherwise it gives the bytes in address order, or
stops at the first one the host has not written. -/
def Obligations.MemReadCases : Prop :=
  ∀ (s : State) (space : Space) (addr n : Nat),
    (s.blobSize space < addr + n → memRead s space addr n = .error (.overrun space)) ∧
    (addr + n ≤ s.blobSize space → ∀ data : Nat → Byte, (s.blob space).holds addr n data →
      memRead s space addr n = .ok ((List.range n).map data)) ∧
    (addr + n ≤ s.blobSize space → ∀ (data : Nat → Byte) (k : Nat), k < n → (s.blob space).holds addr k data →
      (s.blob space).read (addr + k) = none → memRead s space addr n = .error (.unwritten space (addr + k)))

/-- R23, R28: a byte the host writes through an aperture is the byte there afterwards, every other byte of both blobs and
every other field are as before, and the canonical form is kept. Log 7: the size register is not consulted. -/
def Obligations.BlobWriteServed : Prop :=
  ∀ (s : State) (space : Space) (addr : Word) (b : Byte), addr.toNat < 2 ^ 32 - 1 →
    ∃ m : Memory, serve s (.writeBlob space addr b) = .next (s.withBlob space m) ∧
      m.read addr.toNat = some b ∧
      (∀ a, a ≠ addr.toNat → m.read a = (s.blob space).read a) ∧
      ((s.blob space).wf = true → m.wf = true)

/-- R23, R28: a host read of a blob returns the byte written there. The model's own are: its zero-extension in `rdata`
(DESIGN CHOICE, log 5), the stop at a byte never written (DEDUCED from R29 and U7, log 4), and the stops at an address outside
the space and at a write beyond every capacity (DESIGN CHOICE, log 8). -/
def Obligations.BlobReadServed : Prop :=
  ∀ (s : State) (space : Space) (addr : Word),
    (∀ b, addr.toNat < s.blobSize space → (s.blob space).read addr.toNat = some b →
      serve s (.readBlob space addr) = .next { s with rdata := b.zeroExtend 32 }) ∧
    (addr.toNat < s.blobSize space → (s.blob space).read addr.toNat = none →
      serve s (.readBlob space addr) = .fault (.unwrittenByte space addr.toNat)) ∧
    (s.blobSize space ≤ addr.toNat → serve s (.readBlob space addr) = .fault (.hostOutside space addr.toNat)) ∧
    (∀ b, addr.toNat = 2 ^ 32 - 1 → serve s (.writeBlob space addr b) = .fault (.hostOutside space addr.toNat))

/-! ### Level geometry -/

/-- R72: the level's dimensions, by the mathematical shift, always at least 1 and at most 65535. -/
def Obligations.LevelDimensions : Prop :=
  ∀ (p : Picture) (level : BitVec 8),
    p.levelW level = max 1 (p.width.toNat / 2 ^ level.toNat) ∧
    p.levelH level = max 1 (p.height.toNat / 2 ^ level.toNat) ∧
    1 ≤ p.levelW level ∧ p.levelW level ≤ 65535 ∧ 1 ≤ p.levelH level ∧ p.levelH level ≤ 65535 ∧
    p.levelW level * p.levelH level ≤ 4294836225

/-- R73: the base of a level is 0 for level 0 or where there is no MipMapHeader, and otherwise the sum of the sizes of the
lower levels, which does not wrap; it stays below 2^40 (R36). The size of the level itself is not used. A size register the
host has not written since reset holds a free value (R29 leaves it unspecified; DESIGN CHOICE, log 2). -/
def Obligations.LevelBaseSum : Prop :=
  ∀ (p : Picture) (level : BitVec 8),
    (level = 0 ∨ p.mipCount.toNat ≤ 1 → levelBase p level = 0) ∧
    (level ≠ 0 → 1 < p.mipCount.toNat →
      levelBase p level = ((List.range level.toNat).map fun i => (p.mip i).toNat).sum) ∧
    levelBase p level < 2 ^ 40 ∧
    (∀ i, p.mipWritten.getLsbD i = false → p.mip i = Config.freeMipSize i)

/-- In this model a command stops only at a blob byte the host has not written since reset, and by name. The first clause is
the MODEL'S CHOICE (DESIGN CHOICE, log 2) and departs from U7, which names a fault or a refusal for a command that needs a
`PIC.MIP_SIZE[i]` never written: with every byte of both blobs written, both commands always answer a next state, an unwritten
size register holding a free value. The byte clauses are R29's and U7's (log 4): with its palette, where it needs one, known, a
level stops at the first unwritten image byte; and `GET_CLUT`, and an indexed `DECODE_IMAGE`, at the first unwritten byte of
the palette's entries. -/
def Obligations.UnwrittenStops : Prop :=
  ∀ s : State, s.status.fault = false →
    (s.img.written s.pic.imageSize.toNat → s.clut.written s.pic.clutSize.toNat →
      (∀ level : BitVec 8, ∃ t, exec (.decodeImage level) s = .next t) ∧ ∃ t, exec .getClut s = .next t) ∧
    (∀ (level : BitVec 8) (base q : Nat),
      let n := s.pic.levelW level * s.pic.levelH level
      level.toNat < s.pic.mipCount.toNat → levelBase s.pic level = base →
      (∀ a, a < q → s.img.read (base + a) ≠ none) → s.img.read (base + q) = none →
      (∀ f : DirectFmt, s.pic.imgFmt = Config.imgCode f.code → q < f.bytes * n →
        base + f.bytes * (q / f.bytes + 1) ≤ s.pic.imageSize.toNat →
        exec (.decodeImage level) s = .fault (.unwrittenByte .img (base + q))) ∧
      (∀ x : List Color × Bool, decodePalette s = .ok x →
        (s.pic.imgFmt = 5 ∧ q < n ∨ s.pic.imgFmt = 4 ∧ q < (n + 1) / 2) → base + q < s.pic.imageSize.toNat →
        exec (.decodeImage level) s = .fault (.unwrittenByte .img (base + q)))) ∧
    (∀ (f : DirectFmt) (k c : Nat),
      let addr := fun j => f.bytes * remap s.pic.clutType j
      s.pic.hasClut = true → s.pic.clutType.toNat % 64 = f.code.toNat → k < s.pic.clutColors.toNat →
      (∀ j, j ≤ k → addr j + f.bytes ≤ s.pic.clutSize.toNat) →
      (∀ j b, j < k → b < f.bytes → s.clut.read (addr j + b) ≠ none) →
      c < f.bytes → (∀ b, b < c → s.clut.read (addr k + b) ≠ none) → s.clut.read (addr k + c) = none →
      exec .getClut s = .fault (.unwrittenByte .clut (addr k + c)) ∧
      ∀ level : BitVec 8, level.toNat < s.pic.mipCount.toNat → s.pic.imgFmt = 4 ∨ s.pic.imgFmt = 5 →
        exec (.decodeImage level) s = .fault (.unwrittenByte .clut (addr k + c)))

/-! ### DECODE_IMAGE -/

/-- R71: an invalid level gives the empty result with `INVALID_MIP` and no fault, whatever every other register and blob
holds; nothing else changes. -/
def Obligations.InvalidLevelEmpty : Prop :=
  ∀ (s : State) (level : BitVec 8), s.status.fault = false → s.pic.mipCount.toNat ≤ level.toNat →
    exec (.decodeImage level) s = .next { s with
      status := { done := true, fault := false, invalidMip := true, unknownFmt := false, faultCode := s.status.faultCode }
      resW := 0, resH := 0, resCount := 0, out := [], work := none }

/-- R70, R74, R76, R90, R91, R92: a valid level of a direct format, its bytes written and inside the blob, is decoded pixel
by pixel from its packed bytes; nothing but the result changes. -/
def Obligations.DecodeDirectLevel : Prop :=
  ∀ (s : State) (level : BitVec 8) (f : DirectFmt) (base : Nat) (data : Nat → Byte),
    let n := s.pic.levelW level * s.pic.levelH level
    s.status.fault = false → level.toNat < s.pic.mipCount.toNat → s.pic.imgFmt = Config.imgCode f.code →
    levelBase s.pic level = base → base + f.bytes * n ≤ s.pic.imageSize.toNat →
    s.img.holds base (f.bytes * n) data →
    ∃ t, exec (.decodeImage level) s = .next t ∧
      t.completedWith (s.pic.levelW level) (s.pic.levelH level)
        ((List.range n).map fun p => directColor f (f.datum data p)) false ∧
      s.sameInputs t ∧ t.cmd = s.cmd ∧ t.status.faultCode = s.status.faultCode

/-- R70, R77, R94: a valid IDTEX8 level with its palette: each byte is an index into the palette, out of range the default
colour with no flag of its own. -/
def Obligations.DecodeIdtex8Level : Prop :=
  ∀ (s : State) (level : BitVec 8) (base : Nat) (data : Nat → Byte) (pal : List Color) (unknown : Bool),
    let n := s.pic.levelW level * s.pic.levelH level
    s.status.fault = false → level.toNat < s.pic.mipCount.toNat → s.pic.imgFmt = 5 →
    decodePalette s = .ok (pal, unknown) →
    levelBase s.pic level = base → base + n ≤ s.pic.imageSize.toNat → s.img.holds base n data →
    ∃ t, exec (.decodeImage level) s = .next t ∧
      t.completedWith (s.pic.levelW level) (s.pic.levelH level)
        ((List.range n).map fun p => (pal[(data p).toNat]?).getD ⟨0, 0, 0, 0⟩) unknown ∧
      s.sameInputs t ∧ t.cmd = s.cmd ∧ t.status.faultCode = s.status.faultCode

/-- R70, R77, R95: a valid IDTEX4 level with its palette: two pixels a byte, the even pixel in the low nibble. -/
def Obligations.DecodeIdtex4Level : Prop :=
  ∀ (s : State) (level : BitVec 8) (base : Nat) (data : Nat → Byte) (pal : List Color) (unknown : Bool),
    let n := s.pic.levelW level * s.pic.levelH level
    s.status.fault = false → level.toNat < s.pic.mipCount.toNat → s.pic.imgFmt = 4 →
    decodePalette s = .ok (pal, unknown) →
    levelBase s.pic level = base → base + (n + 1) / 2 ≤ s.pic.imageSize.toNat →
    s.img.holds base ((n + 1) / 2) data →
    ∃ t, exec (.decodeImage level) s = .next t ∧
      t.completedWith (s.pic.levelW level) (s.pic.levelH level)
        ((List.range n).map fun p =>
          (pal[if p % 2 = 0 then (data (p / 2)).toNat % 16 else (data (p / 2)).toNat / 16]?).getD ⟨0, 0, 0, 0⟩) unknown ∧
      s.sameInputs t ∧ t.cmd = s.cmd ∧ t.status.faultCode = s.status.faultCode

/-- R96: every other image format byte, `FMT_NONE` included, gives a level of default colours and `UNKNOWN_FMT`, whatever
the blobs and the size registers hold. That a size register never written ends nothing is the model's choice (DESIGN CHOICE,
log 2), where U7 names a fault or a refusal. -/
def Obligations.DecodeUnknownFormat : Prop :=
  ∀ (s : State) (level : BitVec 8),
    s.status.fault = false → level.toNat < s.pic.mipCount.toNat → s.pic.imgFmt = 0 ∨ 6 ≤ s.pic.imgFmt.toNat →
    ∃ t, exec (.decodeImage level) s = .next t ∧
      t.completedWith (s.pic.levelW level) (s.pic.levelH level)
        (List.replicate (s.pic.levelW level * s.pic.levelH level) ⟨0, 0, 0, 0⟩) true ∧
      s.sameInputs t ∧ t.cmd = s.cmd ∧ t.status.faultCode = s.status.faultCode

/-- R94, R95, R134, R137, R138: a valid level that does not fit the blob raises `BlobOverrun(IMG)`, the bytes of the blob
being written; no partial result is left. An indexed level has its palette decoded first, and an absent palette does not
save it. -/
def Obligations.LevelOverruns : Prop :=
  ∀ (s : State) (level : BitVec 8) (base : Nat),
    let n := s.pic.levelW level * s.pic.levelH level
    s.status.fault = false → level.toNat < s.pic.mipCount.toNat → levelBase s.pic level = base →
    s.img.written s.pic.imageSize.toNat →
    (∀ f : DirectFmt, s.pic.imgFmt = Config.imgCode f.code → s.pic.imageSize.toNat < base + f.bytes * n →
      exec (.decodeImage level) s = .next (faultEntry s .imgOverrun)) ∧
    (∀ (pal : List Color) (unknown : Bool), decodePalette s = .ok (pal, unknown) →
      (s.pic.imgFmt = 5 ∧ s.pic.imageSize.toNat < base + n ∨
        s.pic.imgFmt = 4 ∧ s.pic.imageSize.toNat < base + (n + 1) / 2) →
      exec (.decodeImage level) s = .next (faultEntry s .imgOverrun))

/-! ### GET_CLUT and the palette -/

/-- R110, R112, R115 to R117, R119: a palette of a known entry format, the entries it reads written and inside the blob:
entry `K` is the Color at raw entry `Remap(K)`. -/
def Obligations.GetClutEntries : Prop :=
  ∀ (s : State) (f : DirectFmt) (data : Nat → Byte),
    s.status.fault = false → s.pic.hasClut = true → s.pic.clutType.toNat % 64 = f.code.toNat →
    (∀ k, k < s.pic.clutColors.toNat →
      f.bytes * remap s.pic.clutType k + f.bytes ≤ s.pic.clutSize.toNat ∧
      ∀ b, b < f.bytes → s.clut.read (f.bytes * remap s.pic.clutType k + b) =
        some (data (f.bytes * remap s.pic.clutType k + b))) →
    ∃ t, exec .getClut s = .next t ∧
      t.completedWith 0 0
        ((List.range s.pic.clutColors.toNat).map fun k => directColor f (f.datum data (remap s.pic.clutType k))) false ∧
      s.sameInputs t ∧ t.cmd = s.cmd ∧ t.status.faultCode = s.status.faultCode

/-- R111, R118: with `hasClut()` false the palette is empty and no flag is set; with a palette format that is none of the
three, nor none, it is `PIC.CLUT_COLORS` default colours and `UNKNOWN_FMT` is set. Either way nothing is read, and
`GET_CLUT` completes with it. -/
def Obligations.GetClutWithoutEntries : Prop :=
  ∀ s : State,
    (s.pic.clutSize = 0 ∨ s.pic.clutType.toNat % 64 = 0 →
      decodePalette s = .ok ([], false) ∧
      (s.status.fault = false →
        ∃ t, exec .getClut s = .next t ∧ t.completedWith 0 0 [] false ∧
          s.sameInputs t ∧ t.cmd = s.cmd ∧ t.status.faultCode = s.status.faultCode)) ∧
    (s.pic.clutSize ≠ 0 → 4 ≤ s.pic.clutType.toNat % 64 →
      decodePalette s = .ok (List.replicate s.pic.clutColors.toNat ⟨0, 0, 0, 0⟩, true) ∧
      (s.status.fault = false →
        ∃ t, exec .getClut s = .next t ∧
          t.completedWith 0 0 (List.replicate s.pic.clutColors.toNat ⟨0, 0, 0, 0⟩) true ∧
          s.sameInputs t ∧ t.cmd = s.cmd ∧ t.status.faultCode = s.status.faultCode))

/-- R113, R134, R137: a palette entry whose remapped raw entry passes the end of the blob raises `BlobOverrun(CLUT)`, the
bytes of the blob being written: in `GET_CLUT`, and in an indexed `DECODE_IMAGE` of a valid level, before anything is read
from `IMG`. That a size register never written ends nothing before is the model's choice (DESIGN CHOICE, log 2), where U7
names a fault or a refusal. -/
def Obligations.PaletteOverruns : Prop :=
  ∀ (s : State) (f : DirectFmt) (k : Nat),
    s.status.fault = false → s.pic.hasClut = true → s.pic.clutType.toNat % 64 = f.code.toNat →
    k < s.pic.clutColors.toNat → s.pic.clutSize.toNat < f.bytes * remap s.pic.clutType k + f.bytes →
    s.clut.written s.pic.clutSize.toNat →
    exec .getClut s = .next (faultEntry s .clutOverrun) ∧
    ∀ level : BitVec 8, level.toNat < s.pic.mipCount.toNat → s.pic.imgFmt = 4 ∨ s.pic.imgFmt = 5 →
      exec (.decodeImage level) s = .next (faultEntry s .clutOverrun)

/-! ### RESET, faults, refusal -/

/-- R29: the state after reset. Where R29 says a value is unspecified: no byte of a blob reads (log 4), and every
`PIC.MIP_SIZE[i]` holds a free value (DESIGN CHOICE, log 2). -/
def Obligations.ResetState : Prop :=
  let s := State.reset
  s.pic.width = 0 ∧ s.pic.height = 0 ∧ s.pic.imgFmt = 0 ∧ s.pic.clutType = 0 ∧ s.pic.clutColors = 0 ∧
  s.pic.imageSize = 0 ∧ s.pic.clutSize = 0 ∧ s.pic.mipCount = 0 ∧ (∀ i, s.pic.mip i = Config.freeMipSize i) ∧
  s.cmd = none ∧ s.status.toWord = 0 ∧ s.resW = 0 ∧ s.resH = 0 ∧ s.resCount = 0 ∧ s.out = [] ∧
  (∀ a, s.img.read a = none) ∧ (∀ a, s.clut.read a = none) ∧ s.work = none

/-- R80: `RESET` completes in every state, faulted or not, with every item of R29 at its reset value; what the host has
pending is not the engine's (DEDUCED, log 14). -/
def Obligations.ResetCommand : Prop :=
  ∀ s : State,
    exec .reset s = .next { State.reset with host := s.host, rdata := s.rdata, draws := s.draws } ∧
    exec .reset State.reset = .next State.reset

/-- R78: while `FAULT` is 1, `DECODE_IMAGE` and `GET_CLUT` change nothing at all, whatever the blobs hold, and `RESET` is
accepted. -/
def Obligations.RefusedWhileFaulted : Prop :=
  ∀ (s : State) (level : BitVec 8), s.status.fault = true →
    exec (.decodeImage level) s = .next s ∧ exec .getClut s = .next s ∧ exec .reset s = .next (resetEngine s)

/-- R135: a command word whose opcode is none of the three is `ILLEGAL`, which raises `IllegalCommand` when no fault is
pending, and is refused without effect when one is. -/
def Obligations.IllegalCommandRaised : Prop :=
  ∀ (s : State) (op : BitVec 8),
    (s.status.fault = false → exec (.illegal op) s = .next (faultEntry s .illegalCmd)) ∧
    (s.status.fault = true → exec (.illegal op) s = .next s) ∧
    (op ≠ 0x01 → op ≠ 0x02 → op ≠ 0x7F → ∀ w : Word, cmdOp w = op → decodeCmd w = .illegal op)

/-- R138: fault entry. -/
def Obligations.FaultEntryState : Prop :=
  ∀ (s : State) (code : FaultCode),
    let t := faultEntry s code
    t.status = { done := false, fault := true, invalidMip := false, unknownFmt := false, faultCode := code } ∧
    t.resW = 0 ∧ t.resH = 0 ∧ t.resCount = 0 ∧ t.out = [] ∧ t.work = none ∧ s.sameInputs t ∧ t.cmd = s.cmd

/-- R139: only `RESET` and the reset input clear `FAULT`. No other operation clears it, and no command but `RESET` changes
anything; a step that serves a host access or executes a command, with neither next, keeps `STATUS` as it is, `FAULT_CODE`
included, and the empty result with it. -/
def Obligations.FaultSticky : Prop :=
  (∀ (i : Instr) (s t : State), i ≠ .reset → s.status.fault = true → exec i s = .next t →
    t.status.fault = true ∧ (i.group = .cmd → t = s)) ∧
  (∀ s t : State, s.status.fault = true → s.noReset → (∀ w : Word, s.cmd = some w → w.toNat % 256 ≠ 0x7F) →
    step s = .next t →
    t.status.fault = true ∧
    (s.work = none →
      t.status = s.status ∧ t.out = s.out ∧ t.resW = s.resW ∧ t.resH = s.resH ∧ t.resCount = s.resCount))

/-- R21, R60: the status word and the word of a Color, bit by bit. -/
def Obligations.StatusAndColorWords : Prop :=
  (∀ t : Status,
    t.toWord.toNat = t.done.toNat + 2 * t.fault.toNat + 4 * t.invalidMip.toNat + 8 * t.unknownFmt.toNat +
      256 * (match t.faultCode with | .none => 0 | .clutOverrun => 1 | .imgOverrun => 2 | .illegalCmd => 3)) ∧
  (∀ c : Color, (colorWord c).toNat = c.r.toNat + 256 * c.g.toNat + 65536 * c.b.toNat + 16777216 * c.a.toNat)

/-! ### Purity -/

/-- R2: no operation but `RESET` changes a descriptor register, a byte of `IMG` or of `CLUT`, nor anything of the host's. -/
def Obligations.InputsUnchanged : Prop :=
  ∀ (i : Instr) (s t : State), i ≠ .reset → exec i s = .next t →
    s.sameInputs t ∧ t.cmd = s.cmd ∧ (∀ a, t.img.read a = s.img.read a) ∧ (∀ a, t.clut.read a = s.clut.read a)

/-- R2: a command repeated on the same inputs gives the same result: the state it leaves, it leaves unchanged. -/
def Obligations.CommandRepeats : Prop :=
  ∀ (i : Instr) (s t : State), i.group = .cmd → exec i s = .next t → exec i t = .next t

/-- R2, R155: two states with the same inputs and no fault pending give the same result, whatever the last result was. -/
def Obligations.ResultDependsOnInputs : Prop :=
  ∀ (i : Instr) (s s' t : State), i.group = .cmd → s.status.fault = false → s'.status.fault = false →
    s.status.faultCode = s'.status.faultCode → s.pic = s'.pic → s.img = s'.img → s.clut = s'.clut → exec i s = .next t →
    ∃ t', exec i s' = .next t' ∧ t'.status = t.status ∧ t'.out = t.out ∧ t'.resW = t.resW ∧ t'.resH = t.resH ∧
      t'.resCount = t.resCount

/-- R77: `DECODE_IMAGE` of a format that is not indexed does not depend on the CLUT registers or the CLUT blob. -/
def Obligations.DirectIgnoresClut : Prop :=
  ∀ (s t : State) (level : BitVec 8) (ct : Byte) (cc : BitVec 16) (cs : Word) (m : Memory),
    s.pic.imgFmt ≠ 4 → s.pic.imgFmt ≠ 5 → exec (.decodeImage level) s = .next t →
    exec (.decodeImage level) { s with pic := { s.pic with clutType := ct, clutColors := cc, clutSize := cs }, clut := m } =
      .next { t with pic := { s.pic with clutType := ct, clutColors := cc, clutSize := cs }, clut := m }

/-- R70, R71, R76, R138: an accepted `DECODE_IMAGE` that ends, ends in one of three ways. -/
def Obligations.DecodeOutcomes : Prop :=
  ∀ (s t : State) (level : BitVec 8), s.status.fault = false → exec (.decodeImage level) s = .next t →
    (t.status.done = true ∧ t.status.fault = false ∧ t.status.invalidMip = false ∧
      1 ≤ t.resCount.toNat ∧ t.resCount.toNat = t.resW.toNat * t.resH.toNat ∧ t.out.length = t.resCount.toNat) ∨
    (t.status.done = true ∧ t.status.fault = false ∧ t.status.invalidMip = true ∧ t.status.unknownFmt = false ∧
      t.resCount = 0 ∧ t.out = []) ∨
    (t.status.done = false ∧ t.status.fault = true ∧ t.resCount = 0 ∧ t.out = [])

/-! ### The operations a command is made of -/

/-- R74, R90, R91, R92: `PX.RGB32`, `PX.RGB24`, `PX.RGB16` on the current pixel, its bytes written and inside the blob:
`OUT[P]` is the Color, `P` advances, nothing else changes. -/
def Obligations.PxDirectOnPixel : Prop :=
  ∀ (s : State) (f : DirectFmt) (w h base p : Nat) (pal : List Color) (data : Nat → Byte),
    s.work = some (.pixels w h base p pal) → p < w * h →
    base + f.bytes * p + f.bytes ≤ s.pic.imageSize.toNat → s.img.holds (base + f.bytes * p) f.bytes data →
    exec f.pixelOp s = .next { s with
      out := s.out.take p ++ [directColor f ((List.range f.bytes).map data)]
      work := some (.pixels w h base (p + 1) pal) }

/-- R74, R94, R95: `PX.IDTEX8` and `PX.IDTEX4` on the current pixel, its byte written and inside the blob: `OUT[P]` is the
palette entry the index names, or the default colour, `P` advances, nothing else changes. -/
def Obligations.PxIndexedOnPixel : Prop :=
  ∀ (s : State) (w h base p : Nat) (pal : List Color) (b : Byte),
    s.work = some (.pixels w h base p pal) → p < w * h →
    (base + p + 1 ≤ s.pic.imageSize.toNat → s.img.read (base + p) = some b →
      exec .pxIdtex8 s = .next { s with
        out := s.out.take p ++ [(pal[b.toNat]?).getD ⟨0, 0, 0, 0⟩]
        work := some (.pixels w h base (p + 1) pal) }) ∧
    (base + p / 2 + 1 ≤ s.pic.imageSize.toNat → s.img.read (base + p / 2) = some b →
      exec .pxIdtex4 s = .next { s with
        out := s.out.take p ++ [(pal[if p % 2 = 0 then b.toNat % 16 else b.toNat / 16]?).getD ⟨0, 0, 0, 0⟩]
        work := some (.pixels w h base (p + 1) pal) })

/-- R96: `PX.UNKNOWN` on the current pixel, whatever the byte is. -/
def Obligations.PxUnknownOnPixel : Prop :=
  ∀ (s : State) (fmt : BitVec 8) (w h base p : Nat) (pal : List Color),
    s.work = some (.pixels w h base p pal) → p < w * h →
    exec (.pxUnknown fmt) s = .next { s with
      status := { s.status with unknownFmt := true }
      out := s.out.take p ++ [⟨0, 0, 0, 0⟩]
      work := some (.pixels w h base (p + 1) pal) }

/-- R112, R113, R114: the index operations on the current palette index; nothing else changes. -/
def Obligations.IdxOnIndex : Prop :=
  ∀ (s : State) (goal : Goal) (k : Nat) (pal : List Color) (csm compound : BitVec 1) (fmt : BitVec 6),
    s.work = some (.palIndex goal k pal) → k < s.pic.clutColors.toNat →
    exec .idxCompound s = .next { s with work := some (.palEntry goal k (remapCompound k) pal) } ∧
    exec (.idxLinear csm compound fmt) s = .next { s with work := some (.palEntry goal k k pal) }

/-- R112, R115, R116, R117: `CL.RGB32`, `CL.RGB24`, `CL.RGB16` on the raw entry in hand, its bytes written and inside the
blob: the Color is the next entry of `PAL`, `K` advances, nothing else changes. -/
def Obligations.ClOnEntry : Prop :=
  ∀ (s : State) (f : DirectFmt) (goal : Goal) (k j : Nat) (pal : List Color) (data : Nat → Byte),
    s.work = some (.palEntry goal k j pal) →
    f.bytes * j + f.bytes ≤ s.pic.clutSize.toNat → s.clut.holds (f.bytes * j) f.bytes data →
    exec f.entryOp s = .next { s with
      work := some (.palIndex goal (k + 1) (pal ++ [directColor f ((List.range f.bytes).map data)])) }

/-- R33, R134, R138: a pixel whose access passes the end of `IMG`, or a raw entry that passes the end of `CLUT`, raises
`BlobOverrun`, with the widths and addresses of R33. -/
def Obligations.OperationOverruns : Prop :=
  ∀ (s : State) (w h base p : Nat) (goal : Goal) (k j : Nat) (pal : List Color),
    (s.work = some (.pixels w h base p pal) → p < w * h →
      (s.pic.imageSize.toNat < base + 4 * p + 4 → exec .pxRgb32 s = .next (faultEntry s .imgOverrun)) ∧
      (s.pic.imageSize.toNat < base + 3 * p + 3 → exec .pxRgb24 s = .next (faultEntry s .imgOverrun)) ∧
      (s.pic.imageSize.toNat < base + 2 * p + 2 → exec .pxRgb16 s = .next (faultEntry s .imgOverrun)) ∧
      (s.pic.imageSize.toNat < base + p + 1 → exec .pxIdtex8 s = .next (faultEntry s .imgOverrun)) ∧
      (s.pic.imageSize.toNat < base + p / 2 + 1 → exec .pxIdtex4 s = .next (faultEntry s .imgOverrun))) ∧
    (s.work = some (.palEntry goal k j pal) →
      (s.pic.clutSize.toNat < 2 * j + 2 → exec .clRgb16 s = .next (faultEntry s .clutOverrun)) ∧
      (s.pic.clutSize.toNat < 3 * j + 3 → exec .clRgb24 s = .next (faultEntry s .clutOverrun)) ∧
      (s.pic.clutSize.toNat < 4 * j + 4 → exec .clRgb32 s = .next (faultEntry s .clutOverrun)))

/-- R111, R118: `CL.NONE` and `CL.UNKNOWN` give the palette as a whole; nothing is read. -/
def Obligations.ClWholePalette : Prop :=
  ∀ (s : State) (goal : Goal) (csm compound : BitVec 1) (fmt : BitVec 6),
    s.work = some (.palSelect goal) →
    exec .clNone s = .next { s with work := some (.ready goal []) } ∧
    exec (.clUnknown csm compound fmt) s = .next { s with
      status := { s.status with unknownFmt := true }
      work := some (.ready goal (List.replicate s.pic.clutColors.toNat ⟨0, 0, 0, 0⟩)) }

/-- R25, log 16: outside a command the cursors have no value, and every operation that needs one is refused by name. -/
def Obligations.OperationsNeedCommand : Prop :=
  ∀ (s : State) (i : Instr), s.work = none → i.group ≠ .cmd → exec i s = .refused (.outsideCommand i.mnemonic)

/-! ### The step -/

/-- R20, R38: between commands, with no reset input next, a pending command word is decoded and executed whole by one step,
`CMD` being taken. -/
def Obligations.StepRunsCommand : Prop :=
  ∀ (s : State) (w : Word), s.noReset → s.work = none → s.cmd = some w →
    step s = exec (decodeWord .cmd w) { s with cmd := none }

/-- R41, R75, R112: inside a command the step runs the operation that the selector register of the loop it stands in
selects; where `PIC.CLUT_SIZE` is 0 there is no CLUT whatever the selector says, and it runs `CL.NONE` (R19, R111). That a
command can be stepped into is the model's own (DESIGN CHOICE, log 9). -/
def Obligations.StepRunsSelector : Prop :=
  ∀ s : State, s.noReset →
    (∀ w h base p pal, s.work = some (.pixels w h base p pal) → p < w * h →
      step s = exec (decodeWord .imgFmt (s.pic.imgFmt.zeroExtend 32)) s) ∧
    (∀ goal k pal, s.work = some (.palIndex goal k pal) → k < s.pic.clutColors.toNat →
      step s = exec (decodeWord .clutIdx (s.pic.clutType.zeroExtend 32)) s) ∧
    (∀ goal k j pal, s.work = some (.palEntry goal k j pal) →
      step s = exec (decodeWord .clutFmt (s.pic.clutType.zeroExtend 32)) s) ∧
    (∀ goal, s.work = some (.palSelect goal) → s.pic.clutSize = 0 → step s = exec .clNone s) ∧
    (∀ goal, s.work = some (.palSelect goal) → s.pic.clutSize ≠ 0 →
      s.pic.clutType.toNat % 64 = 0 ∨ 4 ≤ s.pic.clutType.toNat % 64 →
      step s = exec (decodeWord .clutFmt (s.pic.clutType.zeroExtend 32)) s)

/-- R150: the reset input abandons whatever is pending or running, comes before everything else, and leaves the reset
state. DEDUCED: that it comes before everything (log 10), and that the host's fields stay (log 14). -/
def Obligations.ResetInput : Prop :=
  ∀ (s : State) (rest : List HostEvent), s.host = .rst :: rest →
    step s = .next { State.reset with host := rest, rdata := s.rdata, draws := s.draws }

/-- R39, R150: between commands, with none pending, the step serves the oldest host access, and waits where there is none. -/
def Obligations.StepServesHost : Prop :=
  ∀ s : State, s.work = none → s.cmd = none →
    (s.host = [] → step s = .next s) ∧
    (∀ e rest, s.host = e :: rest → step s = serve { s with host := rest } e)

/-- R20, R38: a host write to `CMD` executes the whole command before any other host access is served. -/
def Obligations.CmdWriteExecutes : Prop :=
  ∀ (s : State) (w : Word) (rest : List HostEvent),
    s.work = none → s.cmd = none → s.host = .write 0 w :: rest → rest.head? ≠ some .rst →
    runSteps 2 s = exec (decodeWord .cmd w) { s with host := rest }

/-- R38: while a command is pending or running, and no reset input is next, a step serves no host access; and a step from
between commands never stops inside one. -/
def Obligations.CommandsAtomic : Prop :=
  ∀ s t : State, step s = .next t →
    (s.noReset → s.cmd ≠ none ∨ s.work ≠ none → t.host = s.host ∧ t.rdata = s.rdata ∧ t.draws = s.draws) ∧
    (s.work = none → t.work = none)

/-- R70, R121: `DECODE_IMAGE` of a valid level, followed operation by operation from its acceptance, ends exactly as the one
step of the whole command does. That it can be so
followed is the model's own (DESIGN CHOICE, log 9). -/
def Obligations.DecodeByOperations : Prop :=
  ∀ (s : State) (level : BitVec 8),
    s.noReset → s.status.fault = false → level.toNat < s.pic.mipCount.toNat →
    ∃ n, runSteps n (beginDecode level s) = exec (.decodeImage level) s

/-- R110, R121: `GET_CLUT`, followed operation by operation from its acceptance, ends exactly as the one step of the whole
command does. That it can be so followed is the model's own (DESIGN CHOICE, log 9). -/
def Obligations.GetClutByOperations : Prop :=
  ∀ s : State, s.noReset → s.status.fault = false →
    ∃ n, runSteps n (beginGetClut s) = exec .getClut s

/-- R151: the first command after reset cannot fault, and needs no preparation: `DECODE_IMAGE` gives the empty result of R71
with `INVALID_MIP`, `GET_CLUT` the empty palette. -/
def Obligations.FirstCommandSafe : Prop :=
  (∀ level : BitVec 8, ∃ t, exec (.decodeImage level) State.reset = .next t ∧ t.status.toWord = 0x005 ∧
    t.out = [] ∧ t.resW = 0 ∧ t.resH = 0 ∧ t.resCount = 0) ∧
  (∃ t, exec .getClut State.reset = .next t ∧ t.status.toWord = 0x001 ∧
    t.out = [] ∧ t.resW = 0 ∧ t.resH = 0 ∧ t.resCount = 0)

/-! ### The host's port -/

/-- R12 to R18, R28: a host write to a descriptor register sets the fields that the map's bits name, by number, and nothing
else; what the host writes it reads back, less the reserved bits, and no other register's read changes. A host write of a word is the write of the register at its offset, and a host read leaves that register's word in
`rdata`; of a `PIC.MIP_SIZE[i]` the host has not written since reset, the free value it holds (DESIGN CHOICE, log 2, log 3). -/
def Obligations.DescriptorReadBack : Prop :=
  ∀ (s : State) (v : Word),
    (writeReg s v .picDim = { s with pic := { s.pic with
      width := BitVec.ofNat 16 (v.toNat % 65536), height := BitVec.ofNat 16 (v.toNat / 65536) } }) ∧
    (writeReg s v .picFmt = { s with pic := { s.pic with
      imgFmt := BitVec.ofNat 8 (v.toNat % 256), clutType := BitVec.ofNat 8 (v.toNat / 256 % 256),
      mipCount := BitVec.ofNat 8 (v.toNat / 65536 % 256) } }) ∧
    (writeReg s v .picClutColors = { s with pic := { s.pic with clutColors := BitVec.ofNat 16 (v.toNat % 65536) } }) ∧
    (writeReg s v .picImageSize = { s with pic := { s.pic with imageSize := v } }) ∧
    (writeReg s v .picClutSize = { s with pic := { s.pic with clutSize := v } }) ∧
    (∀ i, i < 255 → ∃ p : Picture, writeReg s v (.picMipSize i) = { s with pic := p } ∧
      p.mip i = v ∧ (∀ j, j ≠ i → p.mip j = s.pic.mip j) ∧
      { p with mipSize := s.pic.mipSize, mipWritten := s.pic.mipWritten } = s.pic) ∧
    (readReg s .picDim).toNat = s.pic.width.toNat + 65536 * s.pic.height.toNat ∧
    (readReg s .picFmt).toNat =
      s.pic.imgFmt.toNat + 256 * s.pic.clutType.toNat + 65536 * s.pic.mipCount.toNat ∧
    (readReg s .picClutColors).toNat = s.pic.clutColors.toNat ∧
    readReg s .picImageSize = s.pic.imageSize ∧ readReg s .picClutSize = s.pic.clutSize ∧
    (∀ i, readReg s (.picMipSize i) = s.pic.mip i) ∧
    (readReg (writeReg s v .picDim) .picDim = v) ∧
    (readReg (writeReg s v .picFmt) .picFmt = v &&& 0x00FFFFFF) ∧
    (readReg (writeReg s v .picClutColors) .picClutColors = v &&& 0x0000FFFF) ∧
    (readReg (writeReg s v .picImageSize) .picImageSize = v) ∧
    (readReg (writeReg s v .picClutSize) .picClutSize = v) ∧
    (∀ i, i < 255 → readReg (writeReg s v (.picMipSize i)) (.picMipSize i) = v) ∧
    (∀ q r : Register, q ≠ r → readReg (writeReg s v q) r = readReg s r) ∧
    (∀ offset : Word, serve s (.write offset v) = .next (writeReg s v (registerAt offset))) ∧
    (∀ offset : Word, serve s (.read offset) = .next { s with rdata := readReg s (registerAt offset) }) ∧
    (∀ i, s.pic.mipWritten.getLsbD i = false → readReg s (.picMipSize i) = Config.freeMipSize i)

/-- R28: the offsets of the map; every offset that is not listed, an unaligned one included (DEDUCED, log 21), is reserved. -/
def Obligations.RegisterOffsets : Prop :=
  (registerAt 0x000 = .cmd ∧ registerAt 0x004 = .status ∧ registerAt 0x008 = .resDim ∧ registerAt 0x00C = .resCount ∧
    registerAt 0x010 = .picDim ∧ registerAt 0x014 = .picFmt ∧ registerAt 0x018 = .picClutColors ∧
    registerAt 0x01C = .picImageSize ∧ registerAt 0x020 = .picClutSize) ∧
  (∀ i, i < 255 → registerAt (BitVec.ofNat 32 (0x400 + 4 * i)) = .picMipSize i) ∧
  (∀ a : Word, a.toNat % 4 ≠ 0 ∨ (0x024 ≤ a.toNat ∧ a.toNat < 0x400) ∨ 0x7FC ≤ a.toNat → registerAt a = .reserved)

/-- R20, R21, R22, R28: a host write to a read-only register or a reserved offset changes nothing; a host read of `CMD` or of a
reserved offset returns 0, and of `STATUS`, `RES_COUNT` and `RES_DIM` the word that the map lays out. -/
def Obligations.ReadOnlyRegisters : Prop :=
  ∀ (s : State) (offset v : Word),
    (registerAt offset = .status ∨ registerAt offset = .resDim ∨ registerAt offset = .resCount ∨
      registerAt offset = .reserved → serve s (.write offset v) = .next s) ∧
    (registerAt offset = .cmd ∨ registerAt offset = .reserved → serve s (.read offset) = .next { s with rdata := 0 }) ∧
    serve s (.read 0x004) = .next { s with rdata := s.status.toWord } ∧
    serve s (.read 0x00C) = .next { s with rdata := s.resCount } ∧
    serve s (.read 0x008) = .next { s with rdata := readReg s .resDim } ∧
    (readReg s .resDim).toNat = s.resW.toNat + 65536 * s.resH.toNat

/-- R24, R60, U6: a host read of `OUT` returns the entry's word, and beyond `RES_COUNT` a fresh free value, of which nothing is
known (log 6). -/
def Obligations.OutReadServed : Prop :=
  ∀ (s : State) (index : Word),
    (∀ h : index.toNat < s.out.length,
      serve s (.readOut index) = .next { s with rdata := colorWord s.out[index.toNat] }) ∧
    (s.out.length ≤ index.toNat →
      serve s (.readOut index) = .next { s with rdata := Config.freeWord s.draws, draws := s.draws + 1 })

/-! ### The invariant -/

/-- The reset state meets the invariant. -/
def Obligations.InvAtReset : Prop := State.reset.Inv

/-- R21, R22, R24, R25, R137, R138: every step keeps the invariant: the blobs' canonical form, the flags' exclusions, the
agreement of `OUT` with `RES_*`, the empty result of the faulted state, the cursors' ranges. -/
def Obligations.StepKeepsInv : Prop := ∀ s t : State, s.Inv → step s = .next t → t.Inv
end

