-- ==== Sys2Proof/Laws/State.lean ====
section
/-! SUPPORT. What each named update of the state leaves in each field. -/

namespace Sys2Proof.Machine

/-! ### `faultEntry`: fault entry (R138) -/

@[simp] theorem faultEntry_pic (s : State) (code : FaultCode) : (faultEntry s code).pic = s.pic := rfl
@[simp] theorem faultEntry_cmd (s : State) (code : FaultCode) : (faultEntry s code).cmd = s.cmd := rfl
@[simp] theorem faultEntry_status (s : State) (code : FaultCode) : (faultEntry s code).status = Status.faulted code := rfl
@[simp] theorem faultEntry_resW (s : State) (code : FaultCode) : (faultEntry s code).resW = 0 := rfl
@[simp] theorem faultEntry_resH (s : State) (code : FaultCode) : (faultEntry s code).resH = 0 := rfl
@[simp] theorem faultEntry_resCount (s : State) (code : FaultCode) : (faultEntry s code).resCount = 0 := rfl
@[simp] theorem faultEntry_img (s : State) (code : FaultCode) : (faultEntry s code).img = s.img := rfl
@[simp] theorem faultEntry_clut (s : State) (code : FaultCode) : (faultEntry s code).clut = s.clut := rfl
@[simp] theorem faultEntry_out (s : State) (code : FaultCode) : (faultEntry s code).out = [] := rfl
@[simp] theorem faultEntry_work (s : State) (code : FaultCode) : (faultEntry s code).work = none := rfl
@[simp] theorem faultEntry_host (s : State) (code : FaultCode) : (faultEntry s code).host = s.host := rfl
@[simp] theorem faultEntry_rdata (s : State) (code : FaultCode) : (faultEntry s code).rdata = s.rdata := rfl
@[simp] theorem faultEntry_draws (s : State) (code : FaultCode) : (faultEntry s code).draws = s.draws := rfl

/-! ### `resetEngine`: reset (R29) -/

@[simp] theorem resetEngine_pic (s : State) : (resetEngine s).pic = Picture.reset := rfl
@[simp] theorem resetEngine_cmd (s : State) : (resetEngine s).cmd = none := rfl
@[simp] theorem resetEngine_status (s : State) : (resetEngine s).status = Status.reset := rfl
@[simp] theorem resetEngine_resW (s : State) : (resetEngine s).resW = 0 := rfl
@[simp] theorem resetEngine_resH (s : State) : (resetEngine s).resH = 0 := rfl
@[simp] theorem resetEngine_resCount (s : State) : (resetEngine s).resCount = 0 := rfl
@[simp] theorem resetEngine_img (s : State) : (resetEngine s).img = [] := rfl
@[simp] theorem resetEngine_clut (s : State) : (resetEngine s).clut = [] := rfl
@[simp] theorem resetEngine_out (s : State) : (resetEngine s).out = [] := rfl
@[simp] theorem resetEngine_work (s : State) : (resetEngine s).work = none := rfl
@[simp] theorem resetEngine_host (s : State) : (resetEngine s).host = s.host := rfl
@[simp] theorem resetEngine_rdata (s : State) : (resetEngine s).rdata = s.rdata := rfl
@[simp] theorem resetEngine_draws (s : State) : (resetEngine s).draws = s.draws := rfl

/-! ### `deliver`: completion (R76) -/

@[simp] theorem deliver_pic (s : State) (w h : Nat) (colors : List Color) : (deliver s w h colors).pic = s.pic := rfl
@[simp] theorem deliver_cmd (s : State) (w h : Nat) (colors : List Color) : (deliver s w h colors).cmd = s.cmd := rfl
@[simp] theorem deliver_status (s : State) (w h : Nat) (colors : List Color) : (deliver s w h colors).status = s.status.completed := rfl
@[simp] theorem deliver_resW (s : State) (w h : Nat) (colors : List Color) : (deliver s w h colors).resW = BitVec.ofNat 16 w := rfl
@[simp] theorem deliver_resH (s : State) (w h : Nat) (colors : List Color) : (deliver s w h colors).resH = BitVec.ofNat 16 h := rfl
@[simp] theorem deliver_resCount (s : State) (w h : Nat) (colors : List Color) : (deliver s w h colors).resCount = BitVec.ofNat 32 colors.length := rfl
@[simp] theorem deliver_img (s : State) (w h : Nat) (colors : List Color) : (deliver s w h colors).img = s.img := rfl
@[simp] theorem deliver_clut (s : State) (w h : Nat) (colors : List Color) : (deliver s w h colors).clut = s.clut := rfl
@[simp] theorem deliver_out (s : State) (w h : Nat) (colors : List Color) : (deliver s w h colors).out = colors := rfl
@[simp] theorem deliver_work (s : State) (w h : Nat) (colors : List Color) : (deliver s w h colors).work = none := rfl
@[simp] theorem deliver_host (s : State) (w h : Nat) (colors : List Color) : (deliver s w h colors).host = s.host := rfl
@[simp] theorem deliver_rdata (s : State) (w h : Nat) (colors : List Color) : (deliver s w h colors).rdata = s.rdata := rfl
@[simp] theorem deliver_draws (s : State) (w h : Nat) (colors : List Color) : (deliver s w h colors).draws = s.draws := rfl

/-! ### `startCommand`: acceptance (R21) -/

@[simp] theorem startCommand_pic (s : State) : (startCommand s).pic = s.pic := rfl
@[simp] theorem startCommand_cmd (s : State) : (startCommand s).cmd = s.cmd := rfl
@[simp] theorem startCommand_status (s : State) : (startCommand s).status = s.status.started := rfl
@[simp] theorem startCommand_resW (s : State) : (startCommand s).resW = s.resW := rfl
@[simp] theorem startCommand_resH (s : State) : (startCommand s).resH = s.resH := rfl
@[simp] theorem startCommand_resCount (s : State) : (startCommand s).resCount = s.resCount := rfl
@[simp] theorem startCommand_img (s : State) : (startCommand s).img = s.img := rfl
@[simp] theorem startCommand_clut (s : State) : (startCommand s).clut = s.clut := rfl
@[simp] theorem startCommand_out (s : State) : (startCommand s).out = s.out := rfl
@[simp] theorem startCommand_work (s : State) : (startCommand s).work = s.work := rfl
@[simp] theorem startCommand_host (s : State) : (startCommand s).host = s.host := rfl
@[simp] theorem startCommand_rdata (s : State) : (startCommand s).rdata = s.rdata := rfl
@[simp] theorem startCommand_draws (s : State) : (startCommand s).draws = s.draws := rfl

/-! ### `flagUnknown`: the `UNKNOWN_FMT` flag -/

@[simp] theorem flagUnknown_pic (s : State) (u : Bool) : (flagUnknown s u).pic = s.pic := rfl
@[simp] theorem flagUnknown_cmd (s : State) (u : Bool) : (flagUnknown s u).cmd = s.cmd := rfl
@[simp] theorem flagUnknown_status (s : State) (u : Bool) : (flagUnknown s u).status = s.status.flagUnknown u := rfl
@[simp] theorem flagUnknown_resW (s : State) (u : Bool) : (flagUnknown s u).resW = s.resW := rfl
@[simp] theorem flagUnknown_resH (s : State) (u : Bool) : (flagUnknown s u).resH = s.resH := rfl
@[simp] theorem flagUnknown_resCount (s : State) (u : Bool) : (flagUnknown s u).resCount = s.resCount := rfl
@[simp] theorem flagUnknown_img (s : State) (u : Bool) : (flagUnknown s u).img = s.img := rfl
@[simp] theorem flagUnknown_clut (s : State) (u : Bool) : (flagUnknown s u).clut = s.clut := rfl
@[simp] theorem flagUnknown_out (s : State) (u : Bool) : (flagUnknown s u).out = s.out := rfl
@[simp] theorem flagUnknown_work (s : State) (u : Bool) : (flagUnknown s u).work = s.work := rfl
@[simp] theorem flagUnknown_host (s : State) (u : Bool) : (flagUnknown s u).host = s.host := rfl
@[simp] theorem flagUnknown_rdata (s : State) (u : Bool) : (flagUnknown s u).rdata = s.rdata := rfl
@[simp] theorem flagUnknown_draws (s : State) (u : Bool) : (flagUnknown s u).draws = s.draws := rfl

/-! ### `memWriteOut`: `MemWrite` (R37) -/

@[simp] theorem memWriteOut_pic (s : State) (i : Nat) (c : Color) : (memWriteOut s i c).pic = s.pic := rfl
@[simp] theorem memWriteOut_cmd (s : State) (i : Nat) (c : Color) : (memWriteOut s i c).cmd = s.cmd := rfl
@[simp] theorem memWriteOut_status (s : State) (i : Nat) (c : Color) : (memWriteOut s i c).status = s.status := rfl
@[simp] theorem memWriteOut_resW (s : State) (i : Nat) (c : Color) : (memWriteOut s i c).resW = s.resW := rfl
@[simp] theorem memWriteOut_resH (s : State) (i : Nat) (c : Color) : (memWriteOut s i c).resH = s.resH := rfl
@[simp] theorem memWriteOut_resCount (s : State) (i : Nat) (c : Color) : (memWriteOut s i c).resCount = s.resCount := rfl
@[simp] theorem memWriteOut_img (s : State) (i : Nat) (c : Color) : (memWriteOut s i c).img = s.img := rfl
@[simp] theorem memWriteOut_clut (s : State) (i : Nat) (c : Color) : (memWriteOut s i c).clut = s.clut := rfl
@[simp] theorem memWriteOut_out (s : State) (i : Nat) (c : Color) : (memWriteOut s i c).out = s.out.take i ++ [c] := rfl
@[simp] theorem memWriteOut_work (s : State) (i : Nat) (c : Color) : (memWriteOut s i c).work = s.work := rfl
@[simp] theorem memWriteOut_host (s : State) (i : Nat) (c : Color) : (memWriteOut s i c).host = s.host := rfl
@[simp] theorem memWriteOut_rdata (s : State) (i : Nat) (c : Color) : (memWriteOut s i c).rdata = s.rdata := rfl
@[simp] theorem memWriteOut_draws (s : State) (i : Nat) (c : Color) : (memWriteOut s i c).draws = s.draws := rfl

/-! ### `emptyResult`: the empty result (R71) -/

@[simp] theorem emptyResult_pic (s : State) : (emptyResult s).pic = s.pic := rfl
@[simp] theorem emptyResult_cmd (s : State) : (emptyResult s).cmd = s.cmd := rfl
@[simp] theorem emptyResult_status (s : State) : (emptyResult s).status = (s.status.started.flagInvalidMip).completed := rfl
@[simp] theorem emptyResult_resW (s : State) : (emptyResult s).resW = 0 := rfl
@[simp] theorem emptyResult_resH (s : State) : (emptyResult s).resH = 0 := rfl
@[simp] theorem emptyResult_resCount (s : State) : (emptyResult s).resCount = 0 := rfl
@[simp] theorem emptyResult_img (s : State) : (emptyResult s).img = s.img := rfl
@[simp] theorem emptyResult_clut (s : State) : (emptyResult s).clut = s.clut := rfl
@[simp] theorem emptyResult_out (s : State) : (emptyResult s).out = [] := rfl
@[simp] theorem emptyResult_work (s : State) : (emptyResult s).work = none := rfl
@[simp] theorem emptyResult_host (s : State) : (emptyResult s).host = s.host := rfl
@[simp] theorem emptyResult_rdata (s : State) : (emptyResult s).rdata = s.rdata := rfl
@[simp] theorem emptyResult_draws (s : State) : (emptyResult s).draws = s.draws := rfl

/-! ### `enterLevel`: a level's dimensions and base computed (R70) -/

@[simp] theorem enterLevel_pic (s : State) (level : BitVec 8) : (enterLevel s level).pic = s.pic := rfl
@[simp] theorem enterLevel_cmd (s : State) (level : BitVec 8) : (enterLevel s level).cmd = s.cmd := rfl
@[simp] theorem enterLevel_status (s : State) (level : BitVec 8) : (enterLevel s level).status = s.status := rfl
@[simp] theorem enterLevel_resW (s : State) (level : BitVec 8) : (enterLevel s level).resW = s.resW := rfl
@[simp] theorem enterLevel_resH (s : State) (level : BitVec 8) : (enterLevel s level).resH = s.resH := rfl
@[simp] theorem enterLevel_resCount (s : State) (level : BitVec 8) : (enterLevel s level).resCount = s.resCount := rfl
@[simp] theorem enterLevel_img (s : State) (level : BitVec 8) : (enterLevel s level).img = s.img := rfl
@[simp] theorem enterLevel_clut (s : State) (level : BitVec 8) : (enterLevel s level).clut = s.clut := rfl
@[simp] theorem enterLevel_out (s : State) (level : BitVec 8) : (enterLevel s level).out = s.out := rfl
@[simp] theorem enterLevel_host (s : State) (level : BitVec 8) : (enterLevel s level).host = s.host := rfl
@[simp] theorem enterLevel_rdata (s : State) (level : BitVec 8) : (enterLevel s level).rdata = s.rdata := rfl
@[simp] theorem enterLevel_draws (s : State) (level : BitVec 8) : (enterLevel s level).draws = s.draws := rfl

/-! ### `beginDecode`: `DECODE_IMAGE` of a valid level accepted -/

@[simp] theorem beginDecode_pic (level : BitVec 8) (s : State) : (beginDecode level s).pic = s.pic := rfl
@[simp] theorem beginDecode_cmd (level : BitVec 8) (s : State) : (beginDecode level s).cmd = s.cmd := rfl
@[simp] theorem beginDecode_status (level : BitVec 8) (s : State) : (beginDecode level s).status = s.status.started := rfl
@[simp] theorem beginDecode_resW (level : BitVec 8) (s : State) : (beginDecode level s).resW = s.resW := rfl
@[simp] theorem beginDecode_resH (level : BitVec 8) (s : State) : (beginDecode level s).resH = s.resH := rfl
@[simp] theorem beginDecode_resCount (level : BitVec 8) (s : State) : (beginDecode level s).resCount = s.resCount := rfl
@[simp] theorem beginDecode_img (level : BitVec 8) (s : State) : (beginDecode level s).img = s.img := rfl
@[simp] theorem beginDecode_clut (level : BitVec 8) (s : State) : (beginDecode level s).clut = s.clut := rfl
@[simp] theorem beginDecode_out (level : BitVec 8) (s : State) : (beginDecode level s).out = s.out := rfl
@[simp] theorem beginDecode_work (level : BitVec 8) (s : State) : (beginDecode level s).work = some (.enterLevel level) := rfl
@[simp] theorem beginDecode_host (level : BitVec 8) (s : State) : (beginDecode level s).host = s.host := rfl
@[simp] theorem beginDecode_rdata (level : BitVec 8) (s : State) : (beginDecode level s).rdata = s.rdata := rfl
@[simp] theorem beginDecode_draws (level : BitVec 8) (s : State) : (beginDecode level s).draws = s.draws := rfl

/-! ### `beginGetClut`: `GET_CLUT` accepted -/

@[simp] theorem beginGetClut_pic (s : State) : (beginGetClut s).pic = s.pic := rfl
@[simp] theorem beginGetClut_cmd (s : State) : (beginGetClut s).cmd = s.cmd := rfl
@[simp] theorem beginGetClut_status (s : State) : (beginGetClut s).status = s.status.started := rfl
@[simp] theorem beginGetClut_resW (s : State) : (beginGetClut s).resW = s.resW := rfl
@[simp] theorem beginGetClut_resH (s : State) : (beginGetClut s).resH = s.resH := rfl
@[simp] theorem beginGetClut_resCount (s : State) : (beginGetClut s).resCount = s.resCount := rfl
@[simp] theorem beginGetClut_img (s : State) : (beginGetClut s).img = s.img := rfl
@[simp] theorem beginGetClut_clut (s : State) : (beginGetClut s).clut = s.clut := rfl
@[simp] theorem beginGetClut_out (s : State) : (beginGetClut s).out = s.out := rfl
@[simp] theorem beginGetClut_work (s : State) : (beginGetClut s).work = some (.palSelect .clut) := rfl
@[simp] theorem beginGetClut_host (s : State) : (beginGetClut s).host = s.host := rfl
@[simp] theorem beginGetClut_rdata (s : State) : (beginGetClut s).rdata = s.rdata := rfl
@[simp] theorem beginGetClut_draws (s : State) : (beginGetClut s).draws = s.draws := rfl

/-! ### `withBlob`: a blob replaced -/

@[simp] theorem withBlob_img_pic (s : State) (m : Memory) : (s.withBlob .img m).pic = s.pic := rfl
@[simp] theorem withBlob_img_cmd (s : State) (m : Memory) : (s.withBlob .img m).cmd = s.cmd := rfl
@[simp] theorem withBlob_img_status (s : State) (m : Memory) : (s.withBlob .img m).status = s.status := rfl
@[simp] theorem withBlob_img_resW (s : State) (m : Memory) : (s.withBlob .img m).resW = s.resW := rfl
@[simp] theorem withBlob_img_resH (s : State) (m : Memory) : (s.withBlob .img m).resH = s.resH := rfl
@[simp] theorem withBlob_img_resCount (s : State) (m : Memory) : (s.withBlob .img m).resCount = s.resCount := rfl
@[simp] theorem withBlob_img_img (s : State) (m : Memory) : (s.withBlob .img m).img = m := rfl
@[simp] theorem withBlob_img_clut (s : State) (m : Memory) : (s.withBlob .img m).clut = s.clut := rfl
@[simp] theorem withBlob_img_out (s : State) (m : Memory) : (s.withBlob .img m).out = s.out := rfl
@[simp] theorem withBlob_img_work (s : State) (m : Memory) : (s.withBlob .img m).work = s.work := rfl
@[simp] theorem withBlob_img_host (s : State) (m : Memory) : (s.withBlob .img m).host = s.host := rfl
@[simp] theorem withBlob_img_rdata (s : State) (m : Memory) : (s.withBlob .img m).rdata = s.rdata := rfl
@[simp] theorem withBlob_img_draws (s : State) (m : Memory) : (s.withBlob .img m).draws = s.draws := rfl
@[simp] theorem withBlob_clut_pic (s : State) (m : Memory) : (s.withBlob .clut m).pic = s.pic := rfl
@[simp] theorem withBlob_clut_cmd (s : State) (m : Memory) : (s.withBlob .clut m).cmd = s.cmd := rfl
@[simp] theorem withBlob_clut_status (s : State) (m : Memory) : (s.withBlob .clut m).status = s.status := rfl
@[simp] theorem withBlob_clut_resW (s : State) (m : Memory) : (s.withBlob .clut m).resW = s.resW := rfl
@[simp] theorem withBlob_clut_resH (s : State) (m : Memory) : (s.withBlob .clut m).resH = s.resH := rfl
@[simp] theorem withBlob_clut_resCount (s : State) (m : Memory) : (s.withBlob .clut m).resCount = s.resCount := rfl
@[simp] theorem withBlob_clut_img (s : State) (m : Memory) : (s.withBlob .clut m).img = s.img := rfl
@[simp] theorem withBlob_clut_clut (s : State) (m : Memory) : (s.withBlob .clut m).clut = m := rfl
@[simp] theorem withBlob_clut_out (s : State) (m : Memory) : (s.withBlob .clut m).out = s.out := rfl
@[simp] theorem withBlob_clut_work (s : State) (m : Memory) : (s.withBlob .clut m).work = s.work := rfl
@[simp] theorem withBlob_clut_host (s : State) (m : Memory) : (s.withBlob .clut m).host = s.host := rfl
@[simp] theorem withBlob_clut_rdata (s : State) (m : Memory) : (s.withBlob .clut m).rdata = s.rdata := rfl
@[simp] theorem withBlob_clut_draws (s : State) (m : Memory) : (s.withBlob .clut m).draws = s.draws := rfl

/-! ### `Status` -/

@[simp] theorem status_started_done (t : Status) : (t.started).done = false := rfl
@[simp] theorem status_started_fault (t : Status) : (t.started).fault = t.fault := rfl
@[simp] theorem status_started_invalidMip (t : Status) : (t.started).invalidMip = false := rfl
@[simp] theorem status_started_unknownFmt (t : Status) : (t.started).unknownFmt = false := rfl
@[simp] theorem status_started_faultCode (t : Status) : (t.started).faultCode = t.faultCode := rfl
@[simp] theorem status_flagUnknown_done (t : Status) (u : Bool) : (t.flagUnknown u).done = t.done := rfl
@[simp] theorem status_flagUnknown_fault (t : Status) (u : Bool) : (t.flagUnknown u).fault = t.fault := rfl
@[simp] theorem status_flagUnknown_invalidMip (t : Status) (u : Bool) : (t.flagUnknown u).invalidMip = t.invalidMip := rfl
@[simp] theorem status_flagUnknown_unknownFmt (t : Status) (u : Bool) : (t.flagUnknown u).unknownFmt = (t.unknownFmt || u) := rfl
@[simp] theorem status_flagUnknown_faultCode (t : Status) (u : Bool) : (t.flagUnknown u).faultCode = t.faultCode := rfl
@[simp] theorem status_flagInvalidMip_done (t : Status) : (t.flagInvalidMip).done = t.done := rfl
@[simp] theorem status_flagInvalidMip_fault (t : Status) : (t.flagInvalidMip).fault = t.fault := rfl
@[simp] theorem status_flagInvalidMip_invalidMip (t : Status) : (t.flagInvalidMip).invalidMip = true := rfl
@[simp] theorem status_flagInvalidMip_unknownFmt (t : Status) : (t.flagInvalidMip).unknownFmt = t.unknownFmt := rfl
@[simp] theorem status_flagInvalidMip_faultCode (t : Status) : (t.flagInvalidMip).faultCode = t.faultCode := rfl
@[simp] theorem status_completed_done (t : Status) : (t.completed).done = true := rfl
@[simp] theorem status_completed_fault (t : Status) : (t.completed).fault = t.fault := rfl
@[simp] theorem status_completed_invalidMip (t : Status) : (t.completed).invalidMip = t.invalidMip := rfl
@[simp] theorem status_completed_unknownFmt (t : Status) : (t.completed).unknownFmt = t.unknownFmt := rfl
@[simp] theorem status_completed_faultCode (t : Status) : (t.completed).faultCode = t.faultCode := rfl
@[simp] theorem status_faulted_done (code : FaultCode) : (Status.faulted code).done = false := rfl
@[simp] theorem status_faulted_fault (code : FaultCode) : (Status.faulted code).fault = true := rfl
@[simp] theorem status_faulted_invalidMip (code : FaultCode) : (Status.faulted code).invalidMip = false := rfl
@[simp] theorem status_faulted_unknownFmt (code : FaultCode) : (Status.faulted code).unknownFmt = false := rfl
@[simp] theorem status_faulted_faultCode (code : FaultCode) : (Status.faulted code).faultCode = code := rfl

/-! ### `setMip` -/

@[simp] theorem setMip_width (p : Picture) (i : Nat) (v : Word) : (p.setMip i v).width = p.width := rfl
@[simp] theorem setMip_height (p : Picture) (i : Nat) (v : Word) : (p.setMip i v).height = p.height := rfl
@[simp] theorem setMip_imgFmt (p : Picture) (i : Nat) (v : Word) : (p.setMip i v).imgFmt = p.imgFmt := rfl
@[simp] theorem setMip_clutType (p : Picture) (i : Nat) (v : Word) : (p.setMip i v).clutType = p.clutType := rfl
@[simp] theorem setMip_clutColors (p : Picture) (i : Nat) (v : Word) : (p.setMip i v).clutColors = p.clutColors := rfl
@[simp] theorem setMip_imageSize (p : Picture) (i : Nat) (v : Word) : (p.setMip i v).imageSize = p.imageSize := rfl
@[simp] theorem setMip_clutSize (p : Picture) (i : Nat) (v : Word) : (p.setMip i v).clutSize = p.clutSize := rfl
@[simp] theorem setMip_mipCount (p : Picture) (i : Nat) (v : Word) : (p.setMip i v).mipCount = p.mipCount := rfl

/-- A register in range reads what was written to it. -/
theorem setMip_mip_same (p : Picture) (i : Nat) (v : Word) (h : i < Config.nMipRegs) : (p.setMip i v).mip i = v := by
  simp [Picture.setMip, Picture.mip, h]

/-- A register the host has not written since reset holds the free value (R29, log 2). -/
theorem mip_unwritten {p : Picture} {i : Nat} (h : p.mipWritten.getLsbD i = false) : p.mip i = Config.freeMipSize i := by
  simp [Picture.mip, h]

/-- Every other register is unchanged, written or not. -/
theorem setMip_mip_other (p : Picture) (i j : Nat) (v : Word) (h : i ≠ j) : (p.setMip i v).mip j = p.mip j := by
  simp [Picture.setMip, Picture.mip, h]

end Sys2Proof.Machine
end

