-- ==== Sys2Proof/Laws/Memory.lean ====
section
/-! SUPPORT. The laws of a blob: what a write changes, that it keeps the canonical form, and what `MemRead` answers. -/

namespace Sys2Proof.Machine

/-! ### Read after write -/

theorem read_write_same (m : Memory) (a : Nat) (b : Byte) : (m.write a b).read a = some b := by
  induction m with
  | nil => simp [Memory.write, Memory.read]
  | cons c m ih =>
    obtain ⟨k, c⟩ := c
    by_cases h1 : a < k
    · simp [Memory.write, Memory.read, h1]
    · by_cases h2 : a = k
      · simp [Memory.write, Memory.read, h2]
      · simp [Memory.write, Memory.read, h1, h2, ih]

theorem read_write_other (m : Memory) (a c : Nat) (b : Byte) (h : c ≠ a) : (m.write a b).read c = m.read c := by
  induction m with
  | nil => simp [Memory.write, Memory.read, h]
  | cons x m ih =>
    obtain ⟨k, x⟩ := x
    by_cases h1 : a < k
    · simp [Memory.write, Memory.read, h1, h]
    · by_cases h2 : a = k
      · subst h2
        simp [Memory.write, Memory.read, h]
      · by_cases h3 : c = k
        · simp [Memory.write, Memory.read, h1, h2, h3]
        · simp [Memory.write, Memory.read, h1, h2, h3, ih]

/-! ### The canonical form -/

theorem wfFrom_write (m : Memory) (low a : Nat) (b : Byte) (hlow : low ≤ a) (hcap : a < Config.blobCap)
    (h : Memory.wfFrom low m = true) : Memory.wfFrom low (m.write a b) = true := by
  induction m generalizing low with
  | nil => simp [Memory.write, Memory.wfFrom, hlow, hcap]
  | cons x m ih =>
    obtain ⟨k, x⟩ := x
    simp only [Memory.wfFrom, Bool.and_eq_true, decide_eq_true_eq] at h
    obtain ⟨⟨hk, hkc⟩, hm⟩ := h
    by_cases h1 : a < k
    · simp only [Memory.write, Memory.wfFrom, if_pos h1, Bool.and_eq_true, decide_eq_true_eq]
      exact ⟨⟨hlow, hcap⟩, ⟨by omega, hkc⟩, hm⟩
    · by_cases h2 : a = k
      · subst h2
        simp [Memory.write, Memory.wfFrom, hlow, hcap, hm]
      · have := ih (k + 1) (by omega) hm
        simp [Memory.write, Memory.wfFrom, h1, h2, hk, hkc, this]

/-- The empty blob of the reset state is canonical. -/
@[simp] theorem wf_nil : Memory.wf [] = true := rfl

/-- A write keeps the canonical form. -/
theorem wf_write (m : Memory) (a : Nat) (b : Byte) (hcap : a < Config.blobCap) (h : m.wf = true) :
    (m.write a b).wf = true := wfFrom_write m 0 a b (Nat.zero_le a) hcap h

/-- Every memory operation of the host port keeps the canonical form of both blobs. -/
theorem serveWriteBlob_wf {s t : State} {space : Space} {addr : Nat} {b : Byte}
    (h : serveWriteBlob s space addr b = .next t) (hi : s.img.wf = true) (hc : s.clut.wf = true) :
    t.img.wf = true ∧ t.clut.wf = true := by
  unfold serveWriteBlob at h
  split at h
  · next hlt =>
    cases h
    cases space
    · exact ⟨wf_write _ _ _ hlt hi, hc⟩
    · exact ⟨hi, wf_write _ _ _ hlt hc⟩
  · cases h

/-- The reset state's blobs are canonical. -/
theorem reset_wf : State.reset.img.wf = true ∧ State.reset.clut.wf = true := ⟨rfl, rfl⟩

/-! ### MemRead -/

/-- Bytes the host has written are read in address order. -/
theorem readBytes_ok {s : State} {space : Space} {data : Nat → Byte} :
    ∀ {n addr : Nat}, (∀ k, k < n → (s.blob space).read (addr + k) = some (data k)) →
      readBytes s space addr n = .ok ((List.range n).map data)
  | 0, _, _ => rfl
  | n + 1, addr, h => by
    have h0 := h 0 (Nat.succ_pos n)
    have ih := readBytes_ok (s := s) (space := space) (data := fun k => data (k + 1)) (n := n) (addr := addr + 1)
      (fun k hk => by
        have := h (k + 1) (by omega)
        rwa [show addr + (k + 1) = addr + 1 + k by omega] at this)
    rw [Nat.add_zero] at h0
    simp only [readBytes, h0, ih, Except.map]
    simp [List.range_succ_eq_map, Function.comp_def]

/-- The first byte the host has not written stops the read. -/
theorem readBytes_unwritten {s : State} {space : Space} :
    ∀ {n addr k : Nat}, k < n → (∀ j, j < k → (s.blob space).read (addr + j) ≠ none) →
      (s.blob space).read (addr + k) = none → readBytes s space addr n = .error (.unwritten space (addr + k))
  | n + 1, addr, 0, _, _, h0 => by
    rw [Nat.add_zero] at h0
    simp [readBytes, h0]
  | n + 1, addr, k + 1, hk, hb, hn => by
    have h0 := hb 0 (Nat.succ_pos k)
    rw [Nat.add_zero] at h0
    obtain ⟨b, hb0⟩ := Option.ne_none_iff_exists'.mp h0
    have ih := readBytes_unwritten (s := s) (space := space) (n := n) (addr := addr + 1) (k := k) (by omega)
      (fun j hj => by
        have := hb (j + 1) (by omega)
        rwa [show addr + (j + 1) = addr + 1 + j by omega] at this)
      (by rwa [show addr + (k + 1) = addr + 1 + k by omega] at hn)
    simp only [readBytes, hb0, ih, Except.map]
    rw [show addr + (k + 1) = addr + 1 + k by omega]

/-- All that `readBytes` can answer. -/
theorem readBytes_cases (s : State) (space : Space) :
    ∀ n addr : Nat, (∃ bs, readBytes s space addr n = .ok bs ∧ bs.length = n) ∨
      (∃ a, addr ≤ a ∧ a < addr + n ∧ (s.blob space).read a = none ∧
        readBytes s space addr n = .error (.unwritten space a))
  | 0, addr => .inl ⟨[], rfl, rfl⟩
  | n + 1, addr => by
    cases h : (s.blob space).read addr with
    | none => exact .inr ⟨addr, by omega, by omega, h, by simp [readBytes, h]⟩
    | some b =>
      rcases readBytes_cases s space n (addr + 1) with ⟨bs, hbs, hl⟩ | ⟨a, h1, h2, h3, h4⟩
      · exact .inl ⟨b :: bs, by simp [readBytes, h, hbs, Except.map], by simp [hl]⟩
      · exact .inr ⟨a, by omega, by omega, h3, by simp [readBytes, h, h4, Except.map]⟩

/-- R32: a read passing the end of the space overruns. -/
theorem memRead_overrun {s : State} {space : Space} {addr n : Nat} (h : s.blobSize space < addr + n) :
    memRead s space addr n = .error (.overrun space) := by simp [memRead, h]

/-- R32: a read inside the space, of bytes the host has written. -/
theorem memRead_ok {s : State} {space : Space} {addr n : Nat} {data : Nat → Byte}
    (h : addr + n ≤ s.blobSize space) (hd : (s.blob space).holds addr n data) :
    memRead s space addr n = .ok ((List.range n).map data) := by
  rw [memRead, if_neg (by omega)]
  exact readBytes_ok hd

/-- A read inside the space stops at the first byte the host has not written (U7). -/
theorem memRead_unwritten {s : State} {space : Space} {addr n k : Nat} (h : addr + n ≤ s.blobSize space) (hk : k < n)
    (hb : ∀ j, j < k → (s.blob space).read (addr + j) ≠ none) (hn : (s.blob space).read (addr + k) = none) :
    memRead s space addr n = .error (.unwritten space (addr + k)) := by
  rw [memRead, if_neg (by omega)]
  exact readBytes_unwritten hk hb hn

/-- A read of a space whose bytes are all written can only succeed or overrun. -/
theorem memRead_written {s : State} {space : Space} {addr n : Nat}
    (hw : (s.blob space).written (s.blobSize space)) :
    (addr + n ≤ s.blobSize space ∧ ∃ bs, memRead s space addr n = .ok bs ∧ bs.length = n) ∨
    (s.blobSize space < addr + n ∧ memRead s space addr n = .error (.overrun space)) := by
  by_cases h : s.blobSize space < addr + n
  · exact .inr ⟨h, memRead_overrun h⟩
  · refine .inl ⟨by omega, ?_⟩
    rw [memRead, if_neg h]
    rcases readBytes_cases s space n addr with hok | ⟨a, _, h2, h3, _⟩
    · exact hok
    · exact absurd h3 (hw a (by omega))

end Sys2Proof.Machine
end

