-- ==== Sys2Proof/Laws/Ops.lean ====
section
/-! SUPPORT. What the shared operations can answer: stops, the loops, level geometry, and the agreement of the selector
predicates. -/

namespace Sys2Proof.Machine

/-! ### Stops -/

/-- A stop goes on to a next state only as an overrun, through fault entry (R134, R138). -/
theorem stopWith_next {s t : State} {e : Stop} (h : stopWith s e = .next t) :
    ∃ space, e = .overrun space ∧ t = faultEntry s (overrunCode space) := by
  cases e with
  | overrun space => exact ⟨space, rfl, by cases h; rfl⟩
  | unwritten space a => cases h

@[simp] theorem stopWith_overrun (s : State) (space : Space) :
    stopWith s (.overrun space) = .next (faultEntry s (overrunCode space)) := rfl

@[simp] theorem overrunCode_img : overrunCode .img = .imgOverrun := rfl
@[simp] theorem overrunCode_clut : overrunCode .clut = .clutOverrun := rfl

/-- An overrun names a cause (R130). -/
theorem overrunCode_ne_none (space : Space) : overrunCode space ≠ .none := by cases space <;> decide

/-- Fault entry forgets everything of the result, so two states alike in the rest enter the same faulted state (R138). -/
theorem faultEntry_congr {s t : State} (code : FaultCode) (hp : t.pic = s.pic) (hc : t.cmd = s.cmd) (hi : t.img = s.img)
    (hl : t.clut = s.clut) (hh : t.host = s.host) (hr : t.rdata = s.rdata) (hd : t.draws = s.draws) :
    faultEntry t code = faultEntry s code := by
  simp [faultEntry, hp, hc, hi, hl, hh, hr, hd]

/-- The same for every stop. -/
theorem stopWith_congr {s t : State} (e : Stop) (hp : t.pic = s.pic) (hc : t.cmd = s.cmd) (hi : t.img = s.img)
    (hl : t.clut = s.clut) (hh : t.host = s.host) (hr : t.rdata = s.rdata) (hd : t.draws = s.draws) :
    stopWith t e = stopWith s e := by
  cases e with
  | overrun space => simp [faultEntry_congr _ hp hc hi hl hh hr hd]
  | unwritten space a => rfl

/-! ### The loops (R74, R112) -/

@[simp] theorem collect_zero (f : Nat → Except Stop Color) (p : Nat) : collect f p 0 = .ok [] := rfl

/-- Every turn succeeds. -/
theorem collect_ok {f : Nat → Except Stop Color} {g : Nat → Color} :
    ∀ {n p : Nat}, (∀ i, i < n → f (p + i) = .ok (g (p + i))) →
      collect f p n = .ok ((List.range n).map fun i => g (p + i))
  | 0, _, _ => rfl
  | n + 1, p, h => by
    have h0 := h 0 (Nat.succ_pos n)
    have ih := collect_ok (f := f) (g := g) (n := n) (p := p + 1) (fun i hi => by
      have := h (i + 1) (by omega)
      rwa [show p + (i + 1) = p + 1 + i by omega] at this)
    rw [Nat.add_zero] at h0
    simp only [collect, h0, ih, Except.map]
    simp only [List.range_succ_eq_map, List.map_cons, List.map_map, Nat.add_zero]
    congr 2
    apply List.map_congr_left
    intro i _
    simp only [Function.comp]
    rw [show p + 1 + i = p + (i + 1) by omega]

/-- A loop that ends without a stop has made one Color a turn. -/
theorem collect_length {f : Nat → Except Stop Color} :
    ∀ {n p : Nat} {cs : List Color}, collect f p n = .ok cs → cs.length = n
  | 0, _, _, h => by cases h; rfl
  | n + 1, p, cs, h => by
    unfold collect at h
    split at h
    · cases h
    · cases hc : collect f (p + 1) n with
      | error e => rw [hc] at h; cases h
      | ok ds =>
        rw [hc] at h
        cases h
        simp [collect_length hc]

/-- A loop whose turns succeed or stop for one and the same reason, and which has such a turn, stops for that reason. -/
theorem collect_error {f : Nat → Except Stop Color} {e : Stop} :
    ∀ {n p : Nat}, (∀ i, i < n → (∃ c, f (p + i) = .ok c) ∨ f (p + i) = .error e) →
      (∃ i, i < n ∧ f (p + i) = .error e) → collect f p n = .error e
  | 0, _, _, h => by obtain ⟨i, hi, _⟩ := h; omega
  | n + 1, p, h, hex => by
    unfold collect
    have h0 := h 0 (Nat.succ_pos n)
    rw [Nat.add_zero] at h0
    rcases h0 with ⟨c, hc⟩ | he
    · rw [hc]
      have ih := collect_error (f := f) (e := e) (n := n) (p := p + 1)
        (fun i hi => by
          have := h (i + 1) (by omega)
          rwa [show p + (i + 1) = p + 1 + i by omega] at this)
        (by
          obtain ⟨i, hi, hfi⟩ := hex
          cases i with
          | zero => rw [Nat.add_zero, hc] at hfi; cases hfi
          | succ i => exact ⟨i, by omega, by rwa [show p + (i + 1) = p + 1 + i by omega] at hfi⟩)
      simp [ih, Except.map]
    · rw [he]

/-- The first turn that stops is what a loop stops for (R137). -/
theorem collect_first_stop {f : Nat → Except Stop Color} {e : Stop} :
    ∀ {n p k : Nat}, k < n → (∀ i, i < k → ∃ c, f (p + i) = .ok c) → f (p + k) = .error e → collect f p n = .error e
  | n + 1, p, 0, _, _, he => by
    rw [Nat.add_zero] at he
    simp [collect, he]
  | n + 1, p, k + 1, hk, hb, he => by
    obtain ⟨c, hc⟩ := hb 0 (Nat.succ_pos k)
    have ih := collect_first_stop (f := f) (e := e) (n := n) (p := p + 1) (k := k) (by omega)
      (fun i hi => by
        have := hb (i + 1) (by omega)
        rwa [show p + (i + 1) = p + 1 + i by omega] at this)
      (by rwa [show p + (k + 1) = p + 1 + k by omega] at he)
    rw [Nat.add_zero] at hc
    simp only [collect, hc, ih, Except.map]

/-- Loops of the same turns are the same. -/
theorem collect_congr {f g : Nat → Except Stop Color} (h : ∀ i, f i = g i) (p n : Nat) : collect f p n = collect g p n := by
  rw [show f = g from funext h]

/-! ### Level geometry (R72, R73) -/

theorem levelDim_pos (x : BitVec 16) (level : BitVec 8) : 1 ≤ levelDim x level := Nat.le_max_left 1 _

theorem levelDim_le (x : BitVec 16) (level : BitVec 8) : levelDim x level ≤ 65535 := by
  have h1 : x.toNat >>> level.toNat ≤ x.toNat := by rw [Nat.shiftRight_eq_div_pow]; exact Nat.div_le_self _ _
  have h2 := x.isLt
  simp only [levelDim]
  omega

/-- The sizes add up (R73). -/
theorem sumMips_eq (p : Picture) : ∀ n : Nat, sumMips p n = ((List.range n).map fun i => (p.mip i).toNat).sum
  | 0 => rfl
  | n + 1 => by simp [sumMips, sumMips_eq p n, List.range_succ]

/-- A sum of `n` sizes is below `n` times 2^32. -/
theorem sumMips_bound (p : Picture) : ∀ n : Nat, sumMips p n ≤ n * (2 ^ 32 - 1)
  | 0 => Nat.zero_le _
  | n + 1 => by
    have := sumMips_bound p n
    have := (p.mip n).isLt
    simp only [sumMips]
    omega

/-- The base of level 0, and of every level where there is no MipMapHeader (R73). -/
theorem levelBase_zero {p : Picture} {level : BitVec 8} (h : level = 0 ∨ p.mipCount.toNat ≤ 1) : levelBase p level = 0 := by
  have : level = 0 ∨ p.hasMipMaps = false := h.imp id fun h => by simp [Picture.hasMipMaps]; omega
  exact if_pos this

/-- The base of a higher level is the sum of the lower levels' sizes (R73). -/
theorem levelBase_sum {p : Picture} {level : BitVec 8} (h : level ≠ 0) (hm : 1 < p.mipCount.toNat) :
    levelBase p level = sumMips p level.toNat := by
  have : p.hasMipMaps = true := by simp [Picture.hasMipMaps]; omega
  exact if_neg (by simp only [this, Bool.true_eq_false, or_false]; exact h)

/-! ### Selectors -/

/-- A direct format's code is an image format code of a direct decoder (R52). -/
theorem direct_not_indexed {s : State} {f : DirectFmt} (h : s.pic.imgFmt = Config.imgCode f.code) :
    isIndexed s.pic.imgFmt = false ∧ isImgCode s.pic.imgFmt = true := by
  rw [h]
  cases f <;> decide

/-- A direct format's pixel (R75). -/
theorem pixelAt_direct {s : State} {f : DirectFmt} (h : s.pic.imgFmt = Config.imgCode f.code) (base : Nat)
    (pal : List Color) (p : Nat) : pixelAt s base pal p = directPixel f s base p := by
  unfold pixelAt
  rw [h]
  cases f <;> rfl

/-- An IDTEX8 pixel (R75). -/
theorem pixelAt_idtex8 {s : State} (h : s.pic.imgFmt = 5) (base : Nat) (pal : List Color) (p : Nat) :
    pixelAt s base pal p = pxIdtex8 s base p pal := by
  unfold pixelAt
  rw [h]
  rfl

/-- An IDTEX4 pixel (R75). -/
theorem pixelAt_idtex4 {s : State} (h : s.pic.imgFmt = 4) (base : Nat) (pal : List Color) (p : Nat) :
    pixelAt s base pal p = pxIdtex4 s base p pal := by
  unfold pixelAt
  rw [h]
  rfl

/-- A pixel of an unknown format (R75). -/
theorem pixelAt_unknown {s : State} (h : isImgCode s.pic.imgFmt = false) (base : Nat) (pal : List Color) (p : Nat) :
    pixelAt s base pal p = pxUnknown := by
  simp only [isImgCode, Bool.or_eq_false_iff, beq_eq_false_iff_ne] at h
  obtain ⟨⟨⟨⟨h1, h2⟩, h3⟩, h4⟩, h5⟩ := h
  simp [pixelAt, h1, h2, h3, h4, h5]

/-- An indexed format is a known one. -/
theorem indexed_isImgCode {b : Byte} (h : isIndexed b = true) : isImgCode b = true := by
  simp only [isIndexed, Bool.or_eq_true, beq_iff_eq] at h
  rcases h with h | h <;> subst h <;> decide

end Sys2Proof.Machine
end

