-- ==== Sys2Proof/Laws/Exec.lean ====
section
/-! SUPPORT. What each operation can answer: one inversion lemma per shape, and the commands' results. -/

namespace Sys2Proof.Machine

/-! ### The operations of the loops -/

/-- All that a pixel operation can do: write the current pixel's Color and advance, or enter a fault (R74, R138). -/
theorem pixelStep_next {name : String} {u : Bool} {op : Nat → Nat → List Color → Except Stop Color} {s t : State}
    (h : pixelStep name u op s = .next t) :
    ∃ w hh base p pal, s.work = some (.pixels w hh base p pal) ∧ p < w * hh ∧
      ((∃ c, op base p pal = .ok c ∧
          t = { memWriteOut (flagUnknown s u) p c with work := some (.pixels w hh base (p + 1) pal) }) ∨
        ∃ space, op base p pal = .error (.overrun space) ∧ t = faultEntry s (overrunCode space)) := by
  unfold pixelStep at h
  split at h
  · next w hh base p pal hw =>
    split at h
    · next hp =>
      refine ⟨w, hh, base, p, pal, hw, hp, ?_⟩
      split at h
      · next e he =>
        obtain ⟨space, rfl, ht⟩ := stopWith_next h
        exact .inr ⟨space, he, ht⟩
      · next c hc => cases h; exact .inl ⟨c, hc, rfl⟩
    · cases h
  · cases h

/-- A pixel operation on a current pixel. -/
theorem pixelStep_ok {name : String} {u : Bool} {op : Nat → Nat → List Color → Except Stop Color} {s : State}
    {w h base p : Nat} {pal : List Color} {c : Color} (hw : s.work = some (.pixels w h base p pal)) (hp : p < w * h)
    (hc : op base p pal = .ok c) :
    pixelStep name u op s =
      .next { memWriteOut (flagUnknown s u) p c with work := some (.pixels w h base (p + 1) pal) } := by
  simp [pixelStep, hw, hp, hc]

/-- A pixel operation that stops. -/
theorem pixelStep_error {name : String} {u : Bool} {op : Nat → Nat → List Color → Except Stop Color} {s : State}
    {w h base p : Nat} {pal : List Color} {e : Stop} (hw : s.work = some (.pixels w h base p pal)) (hp : p < w * h)
    (he : op base p pal = .error e) : pixelStep name u op s = stopWith s e := by
  simp [pixelStep, hw, hp, he]

/-- All that an index operation can do (R112). -/
theorem indexStep_next {name : String} {f : Nat → Nat} {s t : State} (h : indexStep name f s = .next t) :
    ∃ goal k pal, s.work = some (.palIndex goal k pal) ∧ k < s.pic.clutColors.toNat ∧
      t = { s with work := some (.palEntry goal k (f k) pal) } := by
  unfold indexStep at h
  split at h
  · next goal k pal hw =>
    split at h
    · next hk => cases h; exact ⟨goal, k, pal, hw, hk, rfl⟩
    · cases h
  · cases h

/-- All that an entry operation can do: append the entry and advance, or enter a fault (R112, R138). -/
theorem entryStep_next {name : String} {op : Nat → Except Stop Color} {s t : State} (h : entryStep name op s = .next t) :
    ∃ goal k j pal, s.work = some (.palEntry goal k j pal) ∧
      ((∃ c, op j = .ok c ∧ t = { s with work := some (.palIndex goal (k + 1) (pal ++ [c])) }) ∨
        ∃ space, op j = .error (.overrun space) ∧ t = faultEntry s (overrunCode space)) := by
  unfold entryStep at h
  split at h
  · next goal k j pal hw =>
    refine ⟨goal, k, j, pal, hw, ?_⟩
    split at h
    · next e he =>
      obtain ⟨space, rfl, ht⟩ := stopWith_next h
      exact .inr ⟨space, he, ht⟩
    · next c hc => cases h; exact .inl ⟨c, hc, rfl⟩
  · cases h

/-- All that a whole-palette operation can do (R111, R118). -/
theorem wholePalette_next {name : String} {u : Bool} {pal : List Color} {s t : State}
    (h : wholePalette name u pal s = .next t) :
    ∃ goal, s.work = some (.palSelect goal) ∧ t = { flagUnknown s u with work := some (.ready goal pal) } := by
  unfold wholePalette at h
  split at h
  · next goal hw => cases h; exact ⟨goal, hw, rfl⟩
  · cases h

/-! ### The palette and the level as functions -/

/-- `DecodePalette` without a CLUT (R111). -/
theorem decodePalette_none {s : State} (h : s.pic.hasClut = false) : decodePalette s = .ok ([], false) := by
  simp [decodePalette, h]

/-- `DecodePalette` of an unknown format (R118). -/
theorem decodePalette_unknown {s : State} (h : s.pic.hasClut = true) (hf : entryFmt s.pic.clutType = none) :
    decodePalette s = .ok (unknownPalette s, true) := by
  simp [decodePalette, h, hf]

/-- `DecodePalette` of a known entry format (R112). -/
theorem decodePalette_entries {s : State} {f : DirectFmt} (h : s.pic.hasClut = true)
    (hf : entryFmt s.pic.clutType = some f) :
    decodePalette s =
      (collect (fun k => clEntry f s (remap s.pic.clutType k)) 0 s.pic.clutColors.toNat).map fun pal => (pal, false) := by
  simp [decodePalette, h, hf]

/-- A palette never has more than `PIC.CLUT_COLORS` entries (R112). -/
theorem decodePalette_length {s : State} {pal : List Color} {u : Bool} (h : decodePalette s = .ok (pal, u)) :
    pal.length ≤ s.pic.clutColors.toNat := by
  unfold decodePalette at h
  split at h
  · split at h
    · cases h; simp [unknownPalette]
    · next f _ =>
      cases hc : collect (fun k => clEntry f s (remap s.pic.clutType k)) 0 s.pic.clutColors.toNat with
      | error e => rw [hc] at h; cases h
      | ok cs => rw [hc] at h; cases h; exact Nat.le_of_eq (collect_length hc)
  · cases h; simp

/-- A palette that stops ends the level before its pixels (R137). -/
theorem decodeLevel_palette_stop {s : State} {level : BitVec 8} {e : Stop} (h : imagePalette s = .error e) :
    decodeLevel s level = .error e := by simp [decodeLevel, h]

/-- A level whose palette is known is its pixel loop (R74). -/
theorem decodeLevel_pixels {s : State} {level : BitVec 8} {pal : List Color} {u : Bool}
    (hp : imagePalette s = .ok (pal, u)) :
    decodeLevel s level =
      (collect (pixelAt s (levelBase s.pic level) pal) 0 (s.pic.levelW level * s.pic.levelH level)).map fun colors =>
        (colors, u || !isImgCode s.pic.imgFmt) := by
  simp [decodeLevel, hp]

/-- A level has exactly `w*h` pixels (R74). -/
theorem decodeLevel_length {s : State} {level : BitVec 8} {cs : List Color} {u : Bool}
    (h : decodeLevel s level = .ok (cs, u)) : cs.length = s.pic.levelW level * s.pic.levelH level := by
  unfold decodeLevel at h
  dsimp only at h
  split at h
  · cases h
  · next pal uc _ =>
    cases hc : collect (pixelAt s (levelBase s.pic level) pal) 0 (s.pic.levelW level * s.pic.levelH level) with
    | error e => rw [hc] at h; cases h
    | ok ds => rw [hc] at h; cases h; exact collect_length hc

/-! ### The commands -/

/-- All that `DECODE_IMAGE` can answer as a next state (R70). -/
theorem execDecodeImage_next {s t : State} {level : BitVec 8} (h : execDecodeImage level s = .next t) :
    (s.status.fault = true ∧ t = s) ∨
    (s.status.fault = false ∧ s.pic.invalidLevel level = true ∧ t = emptyResult s) ∨
    (s.status.fault = false ∧ s.pic.invalidLevel level = false ∧
      ((∃ cs u, decodeLevel s level = .ok (cs, u) ∧
          t = deliver (flagUnknown (startCommand s) u) (s.pic.levelW level) (s.pic.levelH level) cs) ∨
        ∃ space, decodeLevel s level = .error (.overrun space) ∧ t = faultEntry s (overrunCode space))) := by
  unfold execDecodeImage at h
  split at h
  · next hf => cases h; exact .inl ⟨hf, rfl⟩
  · next hf =>
    have hf := eq_false_of_ne_true hf
    split at h
    · next hl => cases h; exact .inr (.inl ⟨hf, hl, rfl⟩)
    · next hl =>
      refine .inr (.inr ⟨hf, eq_false_of_ne_true hl, ?_⟩)
      split at h
      · next e he =>
        obtain ⟨space, rfl, ht⟩ := stopWith_next h
        exact .inr ⟨space, he, ht⟩
      · next cs u hc => cases h; exact .inl ⟨cs, u, hc, rfl⟩

/-- All that `GET_CLUT` can answer as a next state (R110). -/
theorem execGetClut_next {s t : State} (h : execGetClut s = .next t) :
    (s.status.fault = true ∧ t = s) ∨
    (s.status.fault = false ∧
      ((∃ pal u, decodePalette s = .ok (pal, u) ∧ t = deliver (flagUnknown (startCommand s) u) 0 0 pal) ∨
        ∃ space, decodePalette s = .error (.overrun space) ∧ t = faultEntry s (overrunCode space))) := by
  unfold execGetClut at h
  split at h
  · next hf => cases h; exact .inl ⟨hf, rfl⟩
  · next hf =>
    refine .inr ⟨eq_false_of_ne_true hf, ?_⟩
    split at h
    · next e he =>
      obtain ⟨space, rfl, ht⟩ := stopWith_next h
      exact .inr ⟨space, he, ht⟩
    · next pal u hc => cases h; exact .inl ⟨pal, u, hc, rfl⟩

/-- A valid level whose pixels all decode is delivered (R76). -/
theorem execDecodeImage_ok {s : State} {level : BitVec 8} {cs : List Color} {u : Bool} (hf : s.status.fault = false)
    (hl : level.toNat < s.pic.mipCount.toNat) (h : decodeLevel s level = .ok (cs, u)) :
    execDecodeImage level s =
      .next (deliver (flagUnknown (startCommand s) u) (s.pic.levelW level) (s.pic.levelH level) cs) := by
  have : s.pic.invalidLevel level = false := by simp [Picture.invalidLevel]; omega
  simp [execDecodeImage, hf, this, h]

/-- A valid level that stops. -/
theorem execDecodeImage_error {s : State} {level : BitVec 8} {e : Stop} (hf : s.status.fault = false)
    (hl : level.toNat < s.pic.mipCount.toNat) (h : decodeLevel s level = .error e) :
    execDecodeImage level s = stopWith s e := by
  have : s.pic.invalidLevel level = false := by simp [Picture.invalidLevel]; omega
  simp [execDecodeImage, hf, this, h]

/-- A palette that decodes is delivered (R110). -/
theorem execGetClut_ok {s : State} {pal : List Color} {u : Bool} (hf : s.status.fault = false)
    (h : decodePalette s = .ok (pal, u)) :
    execGetClut s = .next (deliver (flagUnknown (startCommand s) u) 0 0 pal) := by
  simp [execGetClut, hf, h]

/-- A palette that stops. -/
theorem execGetClut_error {s : State} {e : Stop} (hf : s.status.fault = false) (h : decodePalette s = .error e) :
    execGetClut s = stopWith s e := by
  simp [execGetClut, hf, h]

/-- What a command delivers, in the terms of the claims. -/
theorem deliver_completed {s : State} (hf : s.status.fault = false) {u : Bool} {w h : Nat} {cs : List Color}
    (hw : w < 2 ^ 16) (hh : h < 2 ^ 16) (hc : cs.length < 2 ^ 32) :
    (deliver (flagUnknown (startCommand s) u) w h cs).completedWith w h cs u := by
  refine ⟨rfl, ?_, ?_, ?_, rfl, rfl, hf, rfl, by simp⟩
  · simp only [deliver_resW, BitVec.toNat_ofNat]; omega
  · simp only [deliver_resH, BitVec.toNat_ofNat]; omega
  · simp only [deliver_resCount, BitVec.toNat_ofNat]; omega

end Sys2Proof.Machine
end

