-- ==== Sys2Proof/Laws/Step.lean ====
section
/-! SUPPORT. What a step fetches, place by place. -/

namespace Sys2Proof.Machine

/-- With no reset input next, a step inside a command goes by the command's place (R38). -/
theorem fetch_work {s : State} {w : Work} (hr : s.noReset) (hw : s.work = some w) : fetch s = fetchWork s w := by
  unfold fetch
  split
  · next rest hh => exact absurd (by simp [hh]) hr
  · rw [hw]

/-- With no reset input next, a step between commands goes by what is pending (R39). -/
theorem fetch_idle {s : State} (hr : s.noReset) (hw : s.work = none) : fetch s = fetchIdle s := by
  unfold fetch
  split
  · next rest hh => exact absurd (by simp [hh]) hr
  · rw [hw]

/-- The reset input comes before everything (R150). -/
theorem step_rst {s : State} {rest : List HostEvent} (h : s.host = .rst :: rest) :
    step s = .next (resetEngine { s with host := rest }) := by
  simp [step, fetch, h, serve]

/-- A step is the operation fetched. -/
theorem step_run {s t : State} {i : Instr} (h : fetch s = .run i t) : step s = exec i t := by simp [step, h]

/-- A step without an operation. -/
theorem step_other {s : State} {o : Host.Outcome State Fault Refusal} (h : fetch s = .other o) : step s = o := by
  simp [step, h]

/-- The entry into a level leaves one of two places in the command (R70, R77). -/
theorem enterLevel_work (s : State) (level : BitVec 8) :
    let goal := Goal.image (s.pic.levelW level) (s.pic.levelH level) (levelBase s.pic level)
    (enterLevel s level).work = some (.palSelect goal) ∨ (enterLevel s level).work = some (.ready goal []) := by
  unfold enterLevel
  cases isIndexed s.pic.imgFmt
  · exact .inr rfl
  · exact .inl rfl

/-- The pixel operation that `PIC.IMG_FMT` selects does on the current pixel what `PixelAt` says (R75). -/
theorem exec_decodeImgFmt {s : State} :
    ∃ name, exec (decodeImgFmt s.pic.imgFmt) s = pixelStep name (!isImgCode s.pic.imgFmt)
      (fun base p pal => pixelAt s base pal p) s := by
  by_cases h1 : s.pic.imgFmt = Config.imgCode Config.fmtRgb16
  · refine ⟨"PX.RGB16", ?_⟩
    have hp := pixelAt_direct (s := s) (f := .rgb16) h1
    rw [show (fun base p pal => pixelAt s base pal p) = fun base p _ => pxRgb16 s base p from
      funext fun _ => funext fun _ => funext fun _ => hp _ _ _]
    rw [h1]; rfl
  by_cases h2 : s.pic.imgFmt = Config.imgCode Config.fmtRgb24
  · refine ⟨"PX.RGB24", ?_⟩
    have hp := pixelAt_direct (s := s) (f := .rgb24) h2
    rw [show (fun base p pal => pixelAt s base pal p) = fun base p _ => pxRgb24 s base p from
      funext fun _ => funext fun _ => funext fun _ => hp _ _ _]
    rw [h2]; rfl
  by_cases h3 : s.pic.imgFmt = Config.imgCode Config.fmtRgb32
  · refine ⟨"PX.RGB32", ?_⟩
    have hp := pixelAt_direct (s := s) (f := .rgb32) h3
    rw [show (fun base p pal => pixelAt s base pal p) = fun base p _ => pxRgb32 s base p from
      funext fun _ => funext fun _ => funext fun _ => hp _ _ _]
    rw [h3]; rfl
  by_cases h4 : s.pic.imgFmt = Config.imgCode Config.fmtIdtex4
  · refine ⟨"PX.IDTEX4", ?_⟩
    have hp := pixelAt_idtex4 (s := s) h4
    rw [show (fun base p pal => pixelAt s base pal p) = pxIdtex4 s from
      funext fun _ => funext fun _ => funext fun _ => hp _ _ _]
    rw [h4]; rfl
  by_cases h5 : s.pic.imgFmt = Config.imgCode Config.fmtIdtex8
  · refine ⟨"PX.IDTEX8", ?_⟩
    have hp := pixelAt_idtex8 (s := s) h5
    rw [show (fun base p pal => pixelAt s base pal p) = pxIdtex8 s from
      funext fun _ => funext fun _ => funext fun _ => hp _ _ _]
    rw [h5]; rfl
  · refine ⟨"PX.UNKNOWN", ?_⟩
    have hk : isImgCode s.pic.imgFmt = false := by simp [isImgCode, h1, h2, h3, h4, h5]
    rw [show (fun base p pal => pixelAt s base pal p) = fun _ _ _ => pxUnknown from
      funext fun _ => funext fun _ => funext fun _ => pixelAt_unknown hk _ _ _, hk]
    simp [decodeImgFmt, h1, h2, h3, h4, h5, exec, execPxUnknown]

/-- The index operation that bits 7:6 select does what `Remap` says (R112). -/
theorem exec_decodeClutIdx {s : State} :
    ∃ name, exec (decodeClutIdx s.pic.clutType) s = indexStep name (remap s.pic.clutType) s := by
  by_cases h : isCompound (clutCsm s.pic.clutType) (clutCompound s.pic.clutType) = true
  · refine ⟨"IDX.COMPOUND", ?_⟩
    rw [show remap s.pic.clutType = remapCompound from funext fun k => by simp [remap, h]]
    simp [decodeClutIdx, h, exec, execIdxCompound]
  · refine ⟨"IDX.LINEAR", ?_⟩
    rw [show remap s.pic.clutType = remapLinear from funext fun k => by simp [remap, h]]
    simp [decodeClutIdx, h, exec, execIdxLinear]

/-- The entry operation that bits 5:0 select, where they select an entry format (R112). -/
theorem exec_decodeClutFmt {s : State} {f : DirectFmt} (hf : entryFmt s.pic.clutType = some f) :
    ∃ name, exec (decodeClutFmt s.pic.clutType) s = entryStep name (clEntry f s) s := by
  unfold entryFmt at hf
  split at hf
  · next h => cases hf; exact ⟨"CL.RGB32", by simp [decodeClutFmt, h, Config.fmtRgb16, Config.fmtRgb24, Config.fmtRgb32]; rfl⟩
  · split at hf
    · next h => cases hf; exact ⟨"CL.RGB24", by simp [decodeClutFmt, h, Config.fmtRgb16, Config.fmtRgb24]; rfl⟩
    · split at hf
      · next h => cases hf; exact ⟨"CL.RGB16", by simp [decodeClutFmt, h]; rfl⟩
      · cases hf

/-- Where bits 5:0 select no entry format and the picture has a CLUT, they select `CL.UNKNOWN` (R118). -/
theorem exec_decodeClutFmt_unknown {s : State} (hc : s.pic.hasClut = true) (hf : entryFmt s.pic.clutType = none) :
    exec (decodeClutFmt s.pic.clutType) s = wholePalette "CL.UNKNOWN" true (unknownPalette s) s := by
  unfold entryFmt at hf
  split at hf
  · cases hf
  · next h3 =>
    split at hf
    · cases hf
    · next h2 =>
      split at hf
      · cases hf
      · next h1 =>
        have h0 : clutFmt s.pic.clutType ≠ Config.fmtNone := by
          simp only [Picture.hasClut, Bool.and_eq_true, bne_iff_ne] at hc
          exact hc.2
        simp [decodeClutFmt, h0, h1, h2, h3, exec, execClUnknown]

end Sys2Proof.Machine
end

