-- ==== Sys2Proof/Laws/Inputs.lean ====
section
/-! SUPPORT. What a command reads: its result is a function of `PIC.*`, `IMG` and `CLUT` alone (R2). -/

namespace Sys2Proof.Machine

/-- `MemRead` looks at the blobs and their sizes only (R32). -/
theorem memRead_congr {s t : State} (hp : t.pic = s.pic) (hi : t.img = s.img) (hc : t.clut = s.clut) :
    memRead t = memRead s := by
  funext space a n
  have hb : t.blob space = s.blob space := by
    cases space with
    | img => exact hi
    | clut => exact hc
  have hl : t.blobSize space = s.blobSize space := by cases space <;> simp [State.blobSize, hp]
  have hr : readBytes t space a n = readBytes s space a n := by
    clear hl
    induction n generalizing a with
    | zero => rfl
    | succ n ih => simp only [readBytes, ih, hb]
  simp only [memRead, hl, hr]

/-- One palette entry. -/
theorem clEntry_congr {s t : State} (hp : t.pic = s.pic) (hi : t.img = s.img) (hc : t.clut = s.clut) (f : DirectFmt) :
    clEntry f t = clEntry f s := by
  funext j
  simp only [clEntry, memRead_congr hp hi hc]

/-- One pixel. -/
theorem pixelAt_congr {s t : State} (hp : t.pic = s.pic) (hi : t.img = s.img) (hc : t.clut = s.clut) :
    pixelAt t = pixelAt s := by
  funext base pal p
  simp only [pixelAt, pxRgb32, pxRgb24, pxRgb16, pxIdtex8, pxIdtex4, directPixel, memRead_congr hp hi hc, hp]

/-- The palette. -/
theorem decodePalette_congr {s t : State} (hp : t.pic = s.pic) (hi : t.img = s.img) (hc : t.clut = s.clut) :
    decodePalette t = decodePalette s := by
  simp only [decodePalette, unknownPalette, clEntry_congr hp hi hc, hp]

/-- The level. -/
theorem decodeLevel_congr {s t : State} (hp : t.pic = s.pic) (hi : t.img = s.img) (hc : t.clut = s.clut)
    (level : BitVec 8) : decodeLevel t level = decodeLevel s level := by
  simp only [decodeLevel, imagePalette, decodePalette_congr hp hi hc, pixelAt_congr hp hi hc, hp]

end Sys2Proof.Machine
end

