-- ==== Sys2Proof/Laws/PerInstr.lean ====
section
/-! SUPPORT. Statements made operation by operation: each is encoded in a word of its own row of the opcode table. -/

namespace Sys2Proof.Laws.EncodesRow

open Sys2Proof

/-- The word of a well-formed operation has its row's fixed bits (R54): it stands under the row's mask as the row's pattern. -/
def Statement (i : Instr) : Prop :=
  i.wellFormed = true →
    ∃ row ∈ tableRows i.group, row.mnemonic = i.mnemonic ∧ encode i &&& row.mask = row.pattern

theorem decodeImage (level : BitVec 8) : Statement (.decodeImage level) := fun _ =>
  ⟨⟨"DECODE_IMAGE", 0xFF, 0x01⟩, by simp [tableRows, Instr.group], rfl, by revert level; decide⟩

theorem getClut : Statement .getClut := fun _ => ⟨⟨"GET_CLUT", 0xFF, 0x02⟩, by decide, rfl, by decide⟩

theorem reset : Statement .reset := fun _ => ⟨⟨"RESET", 0xFF, 0x7F⟩, by decide, rfl, by decide⟩

theorem illegal (op : BitVec 8) : Statement (.illegal op) := fun _ =>
  ⟨⟨"ILLEGAL", 0, 0⟩, by simp [tableRows, Instr.group], rfl, BitVec.and_zero⟩

theorem pxRgb16 : Statement .pxRgb16 := fun _ => ⟨⟨"PX.RGB16", 0xFF, 0x01⟩, by decide, rfl, by decide⟩

theorem pxRgb24 : Statement .pxRgb24 := fun _ => ⟨⟨"PX.RGB24", 0xFF, 0x02⟩, by decide, rfl, by decide⟩

theorem pxRgb32 : Statement .pxRgb32 := fun _ => ⟨⟨"PX.RGB32", 0xFF, 0x03⟩, by decide, rfl, by decide⟩

theorem pxIdtex4 : Statement .pxIdtex4 := fun _ => ⟨⟨"PX.IDTEX4", 0xFF, 0x04⟩, by decide, rfl, by decide⟩

theorem pxIdtex8 : Statement .pxIdtex8 := fun _ => ⟨⟨"PX.IDTEX8", 0xFF, 0x05⟩, by decide, rfl, by decide⟩

theorem pxUnknown (fmt : BitVec 8) : Statement (.pxUnknown fmt) := fun _ =>
  ⟨⟨"PX.UNKNOWN", 0, 0⟩, by simp [tableRows, Instr.group], rfl, BitVec.and_zero⟩

theorem clRgb16 : Statement .clRgb16 := fun _ => ⟨⟨"CL.RGB16", 0x3F, 0x01⟩, by decide, rfl, by decide⟩

theorem clRgb24 : Statement .clRgb24 := fun _ => ⟨⟨"CL.RGB24", 0x3F, 0x02⟩, by decide, rfl, by decide⟩

theorem clRgb32 : Statement .clRgb32 := fun _ => ⟨⟨"CL.RGB32", 0x3F, 0x03⟩, by decide, rfl, by decide⟩

theorem clNone : Statement .clNone := fun _ => ⟨⟨"CL.NONE", 0x3F, 0x00⟩, by decide, rfl, by decide⟩

theorem clUnknown (csm compound : BitVec 1) (fmt : BitVec 6) : Statement (.clUnknown csm compound fmt) := fun _ =>
  ⟨⟨"CL.UNKNOWN", 0, 0⟩, by simp [tableRows, Instr.group], rfl, BitVec.and_zero⟩

theorem idxCompound : Statement .idxCompound := fun _ => ⟨⟨"IDX.COMPOUND", 0xC0, 0x40⟩, by decide, rfl, by decide⟩

theorem idxLinear (csm compound : BitVec 1) (fmt : BitVec 6) : Statement (.idxLinear csm compound fmt) := fun _ =>
  ⟨⟨"IDX.LINEAR", 0, 0⟩, by simp [tableRows, Instr.group], rfl, BitVec.and_zero⟩

end Sys2Proof.Laws.EncodesRow
end

