-- ==== Sys2Proof/Tests/Slice0.lean ====
section
/-! SUPPORT. Tests of single steps against the spec's own examples (95_test_vectors.md and the worked examples of the rules),
and for each statement with hypotheses a state that meets them. -/

namespace Sys2Proof.Tests

open Sys2Proof Sys2Proof.Machine

/-! ### Small states -/

/-- Bytes written from an address on. -/
def bytesFrom : Nat → List Nat → Memory
  | _, [] => []
  | a, b :: bs => (a, BitVec.ofNat 8 b) :: bytesFrom (a + 1) bs

/-- A picture of `w` by `h` pixels with an image blob and no CLUT. -/
def picture (w h fmt mips : Nat) (img : List Nat) : State :=
  { State.reset with
    pic := { Picture.reset with
      width := BitVec.ofNat 16 w
      height := BitVec.ofNat 16 h
      imgFmt := BitVec.ofNat 8 fmt
      mipCount := BitVec.ofNat 8 mips
      imageSize := BitVec.ofNat 32 img.length }
    img := bytesFrom 0 img }

/-- The picture with a CLUT. -/
def withClut (s : State) (clutType colors : Nat) (clut : List Nat) : State :=
  { s with
    pic := { s.pic with
      clutType := BitVec.ofNat 8 clutType
      clutColors := BitVec.ofNat 16 colors
      clutSize := BitVec.ofNat 32 clut.length }
    clut := bytesFrom 0 clut }

/-- A field of the next state. -/
def after {α : Type} (o : Host.Outcome State Fault Refusal) (f : State → α) : Option α :=
  match o with
  | .next t => some (f t)
  | .fault _ => none
  | .refused _ => none

/-- `STATUS` as a number. -/
def statusOf (s : State) : Nat := s.status.toWord.toNat

/-- `OUT` as the host's words (R60). -/
def outOf (s : State) : List Nat := s.out.map fun c => (colorWord c).toNat

/-- `RES_W`, `RES_H`, `RES_COUNT`. -/
def resultOf (s : State) : Nat × Nat × Nat := (s.resW.toNat, s.resH.toNat, s.resCount.toNat)

/-- A running level at pixel `p`. -/
def atPixel (s : State) (w h base p : Nat) (pal : List Color) : State :=
  { s with work := some (.pixels w h base p pal) }

/-- T2D's 2 by 1 RGB32 picture (E2, P1). -/
def e2 : State := picture 2 1 3 1 [0x0A, 0x14, 0x1E, 0xFF, 0x28, 0x32, 0x3C, 0x80]

/-- The two-colour RGB32 palette of R110. -/
def r110 : State := withClut State.reset 0x03 2 [1, 2, 3, 4, 5, 6, 7, 8]

/-- The odd-base picture of V2. -/
def v2 : State :=
  let s := picture 2 2 1 2 [0xAA, 0xAA, 0xAA, 0xAA, 0xAA, 0xAA, 0xAA, 0xAA, 0xEE, 0x34, 0x12]
  { s with pic := (s.pic.setMip 0 9).setMip 1 2 }

/-! ### WellFormed: each check refuses its ill-formed term -/

theorem test_wf_illegal : (Instr.illegal 0x02).wellFormed = false := by decide
theorem test_wf_pxUnknown : (Instr.pxUnknown 5).wellFormed = false := by decide
theorem test_wf_clUnknown : (Instr.clUnknown 0 0 0).wellFormed = false := by decide
theorem test_wf_idxLinear : (Instr.idxLinear 0 1 3).wellFormed = false := by decide
theorem test_wf_accepts : (Instr.idxLinear 1 1 3).wellFormed = true := by decide

/-! ### Decoding: words written out bit by bit from R50 to R53, one for every row -/

theorem test_decode_decodeImage : decodeWord .cmd 0b00000000000000000000001000000001 = .decodeImage 2 := by decide
theorem test_decode_getClut : decodeWord .cmd 0b11111111111111110000000100000010 = .getClut := by decide
theorem test_decode_reset : decodeWord .cmd 0b00000000000000000000000001111111 = .reset := by decide
theorem test_decode_illegal : decodeWord .cmd 0b00000000000000000000000000000011 = .illegal 3 := by decide
theorem test_decode_pxRgb16 : decodeWord .imgFmt 0b00000001 = .pxRgb16 := by decide
theorem test_decode_pxRgb24 : decodeWord .imgFmt 0b00000010 = .pxRgb24 := by decide
theorem test_decode_pxRgb32 : decodeWord .imgFmt 0b00000011 = .pxRgb32 := by decide
theorem test_decode_pxIdtex4 : decodeWord .imgFmt 0b00000100 = .pxIdtex4 := by decide
theorem test_decode_pxIdtex8 : decodeWord .imgFmt 0b00000101 = .pxIdtex8 := by decide
theorem test_decode_pxUnknown : decodeWord .imgFmt 0b01000001 = .pxUnknown 0x41 := by decide
theorem test_decode_clRgb16 : decodeWord .clutFmt 0b01000001 = .clRgb16 := by decide
theorem test_decode_clRgb24 : decodeWord .clutFmt 0b11000010 = .clRgb24 := by decide
theorem test_decode_clRgb32 : decodeWord .clutFmt 0b10000011 = .clRgb32 := by decide
theorem test_decode_clNone : decodeWord .clutFmt 0b01000000 = .clNone := by decide
theorem test_decode_clUnknown : decodeWord .clutFmt 0b10000101 = .clUnknown 1 0 5 := by decide
theorem test_decode_idxCompound : decodeWord .clutIdx 0b01000011 = .idxCompound := by decide
theorem test_decode_idxLinear : decodeWord .clutIdx 0b11000011 = .idxLinear 1 1 3 := by decide

/-- The decoder rejects bytes that are too few, by name, and gives back the bytes it does not take. -/
theorem test_decode_short : (match decodeBytes .cmd [0x01, 0x02, 0x00] with
    | .error e => decide (e = .tooShort)
    | .ok _ => false) = true := by decide

theorem test_decode_bytes : (match decodeBytes .cmd [0x01, 0x02, 0x00, 0x00, 0x55] with
    | .error _ => false
    | .ok x => decide (x = (.decodeImage 2, [0x55]))) = true := by decide

/-- The word of a table row runs as the first instruction after reset: `DECODE_IMAGE 0` (R151). -/
theorem test_fetch_command : after (step (State.reset.withFetchWord 32 0x00000001)) statusOf = some 0x005 := by decide

/-- A selector row runs as the first instruction after reset: `PX.RGB32` on an empty blob overruns (R134). -/
theorem test_fetch_selector : after (step (State.reset.withFetchWord 8 0x03)) statusOf = some 0x202 := by decide

/-! ### DECODE_IMAGE -/

/-- E2: pixels and dimensions. -/
theorem test_decodeImage_rgb32 : after (exec (.decodeImage 0) e2) (fun t => (outOf t, resultOf t, statusOf t)) =
    some ([0xFF1E140A, 0x803C3228], (2, 1, 2), 0x001) := by decide

/-- V2: the odd base of level 1. -/
theorem test_decodeImage_odd_base : after (exec (.decodeImage 1) v2) (fun t => (outOf t, statusOf t)) =
    some ([0x00218CA5], 0x001) := by decide +kernel

/-- R29, R137: a size register that was never written ends nothing: an unknown format completes, a short CLUT is reported. -/
theorem test_decodeImage_unwritten_size :
    after (exec (.decodeImage 1) (picture 1 1 6 2 [])) statusOf = some 0x009 ∧
    after (exec (.decodeImage 1) (withClut (picture 1 1 5 2 [0]) 0x03 1 [0])) statusOf = some 0x102 := by decide

/-! ### GET_CLUT -/

/-- R110. -/
theorem test_getClut_rgb32 : after (exec .getClut r110) (fun t => (outOf t, resultOf t, statusOf t)) =
    some ([0x04030201, 0x08070605], (0, 0, 2), 0x001) := by decide

/-- V8: with 46 bytes palette index 15 of 16 reads raw entry 23 and overruns. -/
theorem test_getClut_compound_overrun :
    after (exec .getClut (withClut State.reset 0x41 16 (List.replicate 46 0))) statusOf = some 0x102 := by decide

/-! ### RESET and ILLEGAL -/

/-- V11: `RESET` of a faulted engine. -/
theorem test_reset_faulted : after (exec .reset (faultEntry e2 .imgOverrun)) (fun t => (statusOf t, t.pic.imageSize)) =
    some (0, 0) := by decide

/-- V11: an undefined opcode. -/
theorem test_illegal : after (exec (.illegal 0) e2) (fun t => (statusOf t, t.pic.imageSize)) = some (0x302, 8) := by decide

/-- V11: refused while faulted. -/
theorem test_illegal_refused : after (exec (.illegal 3) (faultEntry e2 .imgOverrun)) statusOf = some 0x202 := by decide

/-! ### The pixel operations -/

/-- R92: bytes `34 12`. -/
theorem test_pxRgb16 : after (exec .pxRgb16 (atPixel (picture 1 1 1 1 [0x34, 0x12]) 1 1 0 0 [])) outOf =
    some [0x00218CA5] := by decide

/-- R91: pixel 1 starts at byte 3. -/
theorem test_pxRgb24 : after (exec .pxRgb24 (atPixel (picture 2 1 2 1 [1, 2, 3, 4, 5, 6]) 2 1 0 1 [])) outOf =
    some [0xFF060504] := by decide

/-- V5: pixel 2 of 8 bytes overruns. -/
theorem test_pxRgb24_overrun :
    after (exec .pxRgb24 (atPixel (picture 3 1 2 1 [0, 1, 2, 3, 4, 5, 6, 7]) 3 1 0 2 [])) statusOf = some 0x202 := by decide

/-- R90: bytes `28 32 3C 80`. -/
theorem test_pxRgb32 : after (exec .pxRgb32 (atPixel e2 2 1 0 1 [])) outOf = some [0x803C3228] := by decide

/-- E5: byte `AB`, the odd pixel has index 0xA. -/
theorem test_pxIdtex4_odd : after (exec .pxIdtex4 (atPixel (picture 2 1 4 1 [0xAB]) 2 1 0 1
    ((List.range 16).map fun j => ⟨BitVec.ofNat 8 (16 * j), BitVec.ofNat 8 j, 0, 255⟩))) outOf = some [0xFF000AA0] := by decide

/-- E5: the even pixel has index 0xB. -/
theorem test_pxIdtex4_even : after (exec .pxIdtex4 (atPixel (picture 2 1 4 1 [0xAB]) 2 1 0 0
    ((List.range 16).map fun j => ⟨BitVec.ofNat 8 (16 * j), BitVec.ofNat 8 j, 0, 255⟩))) outOf = some [0xFF000BB0] := by decide

/-- R94: index 1 of two entries. -/
theorem test_pxIdtex8 : after (exec .pxIdtex8 (atPixel (picture 1 1 5 1 [1]) 1 1 0 0 [⟨1, 2, 3, 4⟩, ⟨5, 6, 7, 8⟩])) outOf =
    some [0x08070605] := by decide

/-- R98, V6: an index out of range gives the default colour and no flag. -/
theorem test_pxIdtex8_out_of_range :
    after (exec .pxIdtex8 (atPixel (picture 1 1 5 1 [2]) 1 1 0 0 [⟨1, 2, 3, 4⟩, ⟨5, 6, 7, 8⟩]))
      (fun t => (outOf t, statusOf t)) = some ([0], 0) := by decide

/-- R96: the default colour and the flag, with an empty blob. -/
theorem test_pxUnknown : after (exec (.pxUnknown 6) (atPixel (picture 2 1 6 1 []) 2 1 0 0 []))
    (fun t => (outOf t, t.status.unknownFmt)) = some ([0], true) := by decide

/-! ### The palette operations -/

/-- R115: bytes `1F 00` are (255,0,0,0). -/
theorem test_clRgb16 : after (exec .clRgb16 { withClut State.reset 0x01 1 [0x1F, 0x00] with
      work := some (.palEntry .clut 0 0 []) }) (fun t => t.work) =
    some (some (.palIndex .clut 1 [⟨255, 0, 0, 0⟩])) := by decide

/-- R116: entry 1. -/
theorem test_clRgb24 : after (exec .clRgb24 { withClut State.reset 0x02 2 [0x0A, 0x0B, 0x0C, 0x0D, 0x0E, 0x0F] with
      work := some (.palEntry .clut 0 1 []) }) (fun t => t.work) =
    some (some (.palIndex .clut 1 [⟨13, 14, 15, 255⟩])) := by decide

/-- R117: entry 1. -/
theorem test_clRgb32 : after (exec .clRgb32 { r110 with work := some (.palEntry .clut 0 1 []) }) (fun t => t.work) =
    some (some (.palIndex .clut 1 [⟨5, 6, 7, 8⟩])) := by decide

/-- R111. -/
theorem test_clNone : after (exec .clNone { State.reset with work := some (.palSelect .clut) })
    (fun t => (t.work, statusOf t)) = some (some (.ready .clut []), 0) := by decide

/-- R118. -/
theorem test_clUnknown : after (exec (.clUnknown 1 0 5) { withClut State.reset 0x85 2 [0] with
      work := some (.palSelect .clut) }) (fun t => (t.work, t.status.unknownFmt)) =
    some (some (.ready .clut [⟨0, 0, 0, 0⟩, ⟨0, 0, 0, 0⟩]), true) := by decide

/-- E4: palette index 9 yields raw entry 17. -/
theorem test_idxCompound : after (exec .idxCompound { withClut State.reset 0x43 32 [] with
      work := some (.palIndex .clut 9 []) }) (fun t => t.work) = some (some (.palEntry .clut 9 17 [])) := by decide

/-- R114: under 0xC3 palette index 9 yields raw entry 9. -/
theorem test_idxLinear : after (exec (.idxLinear 1 1 3) { withClut State.reset 0xC3 32 [] with
      work := some (.palIndex .clut 9 []) }) (fun t => t.work) = some (some (.palEntry .clut 9 9 [])) := by decide

/-! ### The host's port -/

/-- P1: `PIC_FMT` <- 0x00010003. -/
theorem test_host_write : after (serve State.reset (.write 0x014 0x00010003))
    (fun t => (t.pic.imgFmt, t.pic.clutType, t.pic.mipCount)) = some (3, 0, 1) := by decide

/-- R28: each field from its own bits. -/
theorem test_host_write_fields :
    after (serve State.reset (.write 0x010 0x00010002)) (fun t => (t.pic.width, t.pic.height)) = some (2, 1) ∧
    after (serve State.reset (.write 0x01C 8)) (fun t => (t.pic.imageSize, t.pic.clutSize)) = some (8, 0) := by decide

/-- R28: `RES_DIM` of a 2 by 1 result. -/
theorem test_host_read : after (serve { e2 with resW := 2, resH := 1 } (.read 0x008)) (fun t => t.rdata) =
    some 0x00010002 := by decide

/-- R28: `PIC_MIP_SIZE[1]` is at 0x404. -/
theorem test_host_mip : after (serve State.reset (.write 0x404 8)) (fun t => (t.pic.mipWritten.getLsbD 0, t.pic.mip 1)) =
    some (false, 8) := by decide +kernel

/-! ### Witnesses: states that meet the hypotheses of each statement -/

theorem witness_DecodeEncode : (Instr.clUnknown 1 1 63).wellFormed = true := by decide

theorem witness_CommandWordFields : (0xFFFFFF01 : Word).toNat % 256 = 0x01 ∧ (0xFFFF0102 : Word).toNat % 256 = 0x02 ∧
    (0x0000FF7F : Word).toNat % 256 = 0x7F ∧
    ((0x00000003 : Word).toNat % 256 ≠ 0x01 ∧ (0x00000003 : Word).toNat % 256 ≠ 0x02 ∧
      (0x00000003 : Word).toNat % 256 ≠ 0x7F) := by decide

theorem witness_Expand5Table : (30 : BitVec 5) < 31 := by decide

theorem witness_PaletteLookupInAndOut : 0 < [(⟨1, 2, 3, 4⟩ : Color)].length ∧ [(⟨1, 2, 3, 4⟩ : Color)].length ≤ 1 := by
  decide

/-- V8: the map at the ends of each range. -/
theorem witness_RemapCompoundSwaps :
    [7, 8, 15, 16, 23, 24, 41, 65518, 65534].map remapCompound = [7, 16, 23, 8, 15, 24, 49, 65526, 65534] := by decide

theorem witness_RemapSelection : (0x43 : Byte).toNat / 64 = 1 ∧ (0x3F : Byte).toNat / 64 ≠ 1 ∧
    (0x80 : Byte).toNat / 64 ≠ 1 ∧ (0xC3 : Byte).toNat / 64 ≠ 1 := by decide

theorem witness_DescriptorPredicates : r110.pic.hasClut = true ∧ State.reset.pic.hasClut = false ∧
    v2.pic.hasMipMaps = true ∧ e2.pic.hasMipMaps = false := by decide

/-- The read at the very end of the blob, one byte beyond it, and one that meets an unwritten byte. -/
theorem witness_MemReadCases : 4 + 4 ≤ e2.blobSize .img ∧ (e2.blob .img).holds 4 4 (fun k => [0x28, 0x32, 0x3C, 0x80].getD k 0) ∧
    e2.blobSize .img < 5 + 4 ∧
    (let s := { e2 with img := [(0, 7)] }
     0 + 2 ≤ s.blobSize .img ∧ 1 < 2 ∧ (s.blob .img).holds 0 1 (fun _ => 7) ∧ (s.blob .img).read (0 + 1) = none) := by decide

theorem witness_BlobWriteServed : (0xFFFFFFFE : Word).toNat < 2 ^ 32 - 1 ∧ (e2.blob .img).wf = true := by decide

theorem witness_BlobReadServed : (7 : Word).toNat < e2.blobSize .img ∧ (e2.blob .img).read (7 : Word).toNat = some 0x80 ∧
    (let s := { e2 with img := [] }
     (7 : Word).toNat < s.blobSize .img ∧ (s.blob .img).read (7 : Word).toNat = none) ∧
    e2.blobSize .img ≤ (8 : Word).toNat ∧ (0xFFFFFFFF : Word).toNat = 2 ^ 32 - 1 := by decide

/-- V1: the shift is not modulo 16, and a zero dimension clamps. -/
theorem witness_LevelDimensions : levelDim 65535 15 = 1 ∧ levelDim 65535 16 = 1 ∧ levelDim 0 0 = 1 ∧ levelDim 5 1 = 2 := by
  decide

theorem witness_LevelBaseSum : (1 : BitVec 8) ≠ 0 ∧ 1 < v2.pic.mipCount.toNat ∧
    v2.pic.mip 0 = 9 ∧ v2.pic.mip 1 = 2 ∧ e2.pic.mipCount.toNat ≤ 1 ∧ levelBase v2.pic 1 = 9 ∧
    v2.pic.mipWritten.getLsbD 1 = true ∧ v2.pic.mipWritten.getLsbD 2 = false := by decide +kernel

/-- Every byte written; an unwritten image byte, for a direct and for both indexed formats; an unwritten CLUT byte. -/
theorem witness_UnwrittenStops :
    (let s := withClut (picture 2 2 5 2 [0, 1, 2, 3]) 0x03 2 [1, 2, 3, 4, 5, 6, 7, 8]
     s.status.fault = false ∧ s.img.written s.pic.imageSize.toNat ∧ s.clut.written s.pic.clutSize.toNat) ∧
    (let s := { e2 with img := bytesFrom 0 [0x0A, 0x14, 0x1E, 0xFF, 0x28] }
     s.status.fault = false ∧ (0 : BitVec 8).toNat < s.pic.mipCount.toNat ∧ levelBase s.pic 0 = 0 ∧
     (∀ a, a < 5 → s.img.read (0 + a) ≠ none) ∧ s.img.read (0 + 5) = none ∧
     s.pic.imgFmt = Config.imgCode DirectFmt.rgb32.code ∧ 5 < 4 * (s.pic.levelW 0 * s.pic.levelH 0) ∧
     0 + 4 * (5 / 4 + 1) ≤ s.pic.imageSize.toNat) ∧
    (let s := { picture 2 1 5 1 [7, 7] with img := bytesFrom 0 [7] }
     s.status.fault = false ∧ (0 : BitVec 8).toNat < s.pic.mipCount.toNat ∧ decodePalette s = .ok ([], false) ∧
     levelBase s.pic 0 = 0 ∧ s.pic.imgFmt = 5 ∧ (∀ a, a < 1 → s.img.read (0 + a) ≠ none) ∧
     1 < s.pic.levelW 0 * s.pic.levelH 0 ∧ s.img.read (0 + 1) = none ∧ 0 + 1 < s.pic.imageSize.toNat) ∧
    (let s := { picture 3 1 4 1 [7, 7] with img := bytesFrom 0 [7] }
     s.status.fault = false ∧ (0 : BitVec 8).toNat < s.pic.mipCount.toNat ∧ decodePalette s = .ok ([], false) ∧
     levelBase s.pic 0 = 0 ∧ s.pic.imgFmt = 4 ∧ (∀ a, a < 1 → s.img.read (0 + a) ≠ none) ∧
     1 < (s.pic.levelW 0 * s.pic.levelH 0 + 1) / 2 ∧ s.img.read (0 + 1) = none ∧ 0 + 1 < s.pic.imageSize.toNat) ∧
    (let s := { withClut (picture 1 1 5 1 []) 0x03 2 [1, 2, 3, 4, 5, 6, 7, 8] with clut := bytesFrom 0 [1, 2, 3, 4, 5] }
     s.status.fault = false ∧ s.pic.hasClut = true ∧ s.pic.clutType.toNat % 64 = DirectFmt.rgb32.code.toNat ∧
     1 < s.pic.clutColors.toNat ∧ (∀ j, j ≤ 1 → 4 * remap s.pic.clutType j + 4 ≤ s.pic.clutSize.toNat) ∧
     (∀ b, b < 4 → s.clut.read (4 * remap s.pic.clutType 0 + b) ≠ none) ∧
     s.clut.read (4 * remap s.pic.clutType 1 + 0) ≠ none ∧ s.clut.read (4 * remap s.pic.clutType 1 + 1) = none ∧
     (0 : BitVec 8).toNat < s.pic.mipCount.toNat ∧ s.pic.imgFmt = 5) :=
  ⟨by decide,
    ⟨rfl, by decide, rfl, by decide, by decide, by decide, by decide, by decide⟩,
    ⟨rfl, by decide, rfl, rfl, by decide, by decide, by decide, by decide, by decide⟩,
    ⟨rfl, by decide, rfl, rfl, by decide, by decide, by decide, by decide, by decide⟩,
    ⟨rfl, by decide, by decide, by decide, by decide, by decide, by decide, by decide, by decide, by decide⟩⟩

/-- Level equal to the count (E6), and a count of 0. -/
theorem witness_InvalidLevelEmpty : e2.status.fault = false ∧ e2.pic.mipCount.toNat ≤ (1 : BitVec 8).toNat ∧
    State.reset.pic.mipCount.toNat ≤ (0 : BitVec 8).toNat := by decide

/-- An exact fit. -/
theorem witness_DecodeDirectLevel : e2.status.fault = false ∧ (0 : BitVec 8).toNat < e2.pic.mipCount.toNat ∧
    e2.pic.imgFmt = Config.imgCode DirectFmt.rgb32.code ∧ levelBase e2.pic 0 = 0 ∧
    0 + DirectFmt.rgb32.bytes * (e2.pic.levelW 0 * e2.pic.levelH 0) ≤ e2.pic.imageSize.toNat ∧
    e2.img.holds 0 (DirectFmt.rgb32.bytes * (e2.pic.levelW 0 * e2.pic.levelH 0))
      (fun k => [0x0A, 0x14, 0x1E, 0xFF, 0x28, 0x32, 0x3C, 0x80].getD k 0) :=
  ⟨rfl, by decide, by decide, rfl, by decide, by decide⟩

/-- A 3 by 1 IDTEX8 level with the palette of R110, exact fit, one index out of range. -/
theorem witness_DecodeIdtex8Level :
    let s := withClut (picture 3 1 5 1 [1, 0, 255]) 0x03 2 [1, 2, 3, 4, 5, 6, 7, 8]
    s.status.fault = false ∧ (0 : BitVec 8).toNat < s.pic.mipCount.toNat ∧ s.pic.imgFmt = 5 ∧
    decodePalette s = .ok ([⟨1, 2, 3, 4⟩, ⟨5, 6, 7, 8⟩], false) ∧ levelBase s.pic 0 = 0 ∧
    0 + s.pic.levelW 0 * s.pic.levelH 0 ≤ s.pic.imageSize.toNat ∧
    s.img.holds 0 (s.pic.levelW 0 * s.pic.levelH 0) (fun k => [1, 0, 255].getD k 0) :=
  ⟨rfl, by decide, rfl, rfl, rfl, by decide, by decide⟩

/-- An odd number of pixels: the last byte is half used. -/
theorem witness_DecodeIdtex4Level :
    let s := withClut (picture 3 1 4 1 [0x10, 0x01]) 0x03 2 [1, 2, 3, 4, 5, 6, 7, 8]
    s.status.fault = false ∧ (0 : BitVec 8).toNat < s.pic.mipCount.toNat ∧ s.pic.imgFmt = 4 ∧
    decodePalette s = .ok ([⟨1, 2, 3, 4⟩, ⟨5, 6, 7, 8⟩], false) ∧ levelBase s.pic 0 = 0 ∧
    0 + (s.pic.levelW 0 * s.pic.levelH 0 + 1) / 2 ≤ s.pic.imageSize.toNat ∧
    s.img.holds 0 ((s.pic.levelW 0 * s.pic.levelH 0 + 1) / 2) (fun k => [0x10, 0x01].getD k 0) :=
  ⟨rfl, by decide, rfl, rfl, rfl, by decide, by decide⟩

theorem witness_DecodeUnknownFormat :
    (let s := picture 2 1 6 1 []
     s.status.fault = false ∧ (0 : BitVec 8).toNat < s.pic.mipCount.toNat ∧ 6 ≤ s.pic.imgFmt.toNat) ∧
    (let s := picture 0 0 0 1 []
     s.status.fault = false ∧ (0 : BitVec 8).toNat < s.pic.mipCount.toNat ∧ s.pic.imgFmt = 0) := by decide

/-- One byte short, in each kind of format; the indexed ones without a CLUT (V11). -/
theorem witness_LevelOverruns :
    (let s := picture 2 2 1 1 [0, 1, 2, 3, 4, 5, 6]
     s.status.fault = false ∧ (0 : BitVec 8).toNat < s.pic.mipCount.toNat ∧ levelBase s.pic 0 = 0 ∧
     s.img.written s.pic.imageSize.toNat ∧ s.pic.imgFmt = Config.imgCode DirectFmt.rgb16.code ∧
     s.pic.imageSize.toNat < 0 + DirectFmt.rgb16.bytes * (s.pic.levelW 0 * s.pic.levelH 0)) ∧
    (let s := picture 1 1 5 1 []
     decodePalette s = .ok ([], false) ∧ s.pic.imgFmt = 5 ∧ s.img.written s.pic.imageSize.toNat ∧
     s.pic.imageSize.toNat < 0 + s.pic.levelW 0 * s.pic.levelH 0) ∧
    (let s := picture 3 1 4 1 [0]
     decodePalette s = .ok ([], false) ∧ s.pic.imgFmt = 4 ∧ s.img.written s.pic.imageSize.toNat ∧
     s.pic.imageSize.toNat < 0 + (s.pic.levelW 0 * s.pic.levelH 0 + 1) / 2) :=
  ⟨⟨rfl, by decide, rfl, by decide, by decide, by decide⟩, ⟨rfl, rfl, by decide, by decide⟩,
    ⟨rfl, rfl, by decide, by decide⟩⟩

theorem witness_GetClutEntries : r110.status.fault = false ∧ r110.pic.hasClut = true ∧
    r110.pic.clutType.toNat % 64 = DirectFmt.rgb32.code.toNat ∧
    (∀ k, k < r110.pic.clutColors.toNat →
      4 * remap r110.pic.clutType k + 4 ≤ r110.pic.clutSize.toNat ∧
      ∀ b, b < 4 → r110.clut.read (4 * remap r110.pic.clutType k + b) =
        some ([1, 2, 3, 4, 5, 6, 7, 8].getD (4 * remap r110.pic.clutType k + b) 0)) := by decide

theorem witness_GetClutWithoutEntries : State.reset.pic.clutSize = 0 ∧
    (withClut State.reset 0x40 16 [0]).pic.clutType.toNat % 64 = 0 ∧
    (let s := withClut State.reset 0x84 16 [0]
     s.pic.clutSize ≠ 0 ∧ 4 ≤ s.pic.clutType.toNat % 64 ∧ s.status.fault = false) ∧
    4 ≤ (withClut State.reset 0x3F 3 [0]).pic.clutType.toNat % 64 := by decide

/-- V11's fourth row, with IDTEX8: both blobs are short. -/
theorem witness_PaletteOverruns :
    let s := withClut (picture 1 1 5 1 []) 0x03 2 [1, 2, 3, 4, 5, 6, 7]
    (s.status.fault = false ∧ s.pic.hasClut = true ∧ s.pic.clutType.toNat % 64 = DirectFmt.rgb32.code.toNat ∧
    1 < s.pic.clutColors.toNat ∧ s.pic.clutSize.toNat < 4 * remap s.pic.clutType 1 + 4 ∧
    s.clut.written s.pic.clutSize.toNat ∧ (0 : BitVec 8).toNat < s.pic.mipCount.toNat ∧ s.pic.imgFmt = 5) := by decide

theorem witness_RefusedWhileFaulted : (faultEntry e2 .imgOverrun).status.fault = true := by decide

theorem witness_IllegalCommandRaised : e2.status.fault = false ∧ (faultEntry e2 .illegalCmd).status.fault = true ∧
    cmdOp 0xFFFFFF7E = 0x7E ∧ (0x7E : BitVec 8) ≠ 0x7F := by decide

theorem witness_FaultSticky :
    (Instr.getClut ≠ .reset ∧ (faultEntry e2 .imgOverrun).status.fault = true ∧
      exec .getClut (faultEntry e2 .imgOverrun) = .next (faultEntry e2 .imgOverrun)) ∧
    (let s := { faultEntry e2 .imgOverrun with cmd := some 0x02, host := [.write 0x010 5] }
     s.status.fault = true ∧ s.noReset ∧ (∀ w : Word, s.cmd = some w → w.toNat % 256 ≠ 0x7F) ∧ s.work = none ∧
     ∃ t, step s = .next t) :=
  ⟨⟨by decide, rfl, rfl⟩, rfl, by decide, fun w h => by cases h; decide, rfl, _, rfl⟩

theorem witness_InputsUnchanged : Instr.getClut ≠ .reset ∧ ∃ t, exec .getClut r110 = .next t := ⟨by decide, _, rfl⟩

theorem witness_CommandRepeats : (Instr.decodeImage 0).group = .cmd ∧ ∃ t, exec (.decodeImage 0) e2 = .next t :=
  ⟨rfl, _, rfl⟩

theorem witness_ResultDependsOnInputs :
    let s' := { e2 with out := [⟨9, 9, 9, 9⟩], resCount := 1 }
    e2.status.fault = false ∧ s'.status.fault = false ∧ e2.status.faultCode = s'.status.faultCode ∧ e2.pic = s'.pic ∧
    e2.img = s'.img ∧ e2.clut = s'.clut ∧ ∃ t, exec (.decodeImage 0) e2 = .next t :=
  ⟨rfl, rfl, rfl, rfl, rfl, rfl, _, rfl⟩

theorem witness_DirectIgnoresClut : e2.pic.imgFmt ≠ 4 ∧ e2.pic.imgFmt ≠ 5 ∧ ∃ t, exec (.decodeImage 0) e2 = .next t :=
  ⟨by decide, by decide, _, rfl⟩

/-- Each of the three ends is met. -/
theorem witness_DecodeOutcomes : after (exec (.decodeImage 0) e2) statusOf = some 0x001 ∧
    after (exec (.decodeImage 1) e2) statusOf = some 0x005 ∧
    after (exec (.decodeImage 0) (picture 1 1 3 1 [])) statusOf = some 0x202 := by decide

theorem witness_PxDirectOnPixel :
    let s := atPixel e2 2 1 0 1 []
    s.work = some (.pixels 2 1 0 1 []) ∧ 1 < 2 * 1 ∧ 0 + 4 * 1 + 4 ≤ s.pic.imageSize.toNat ∧
    s.img.holds (0 + 4 * 1) 4 (fun k => [0x28, 0x32, 0x3C, 0x80].getD k 0) := by decide

theorem witness_PxIndexedOnPixel :
    (let s := atPixel (picture 2 1 5 1 [0, 1]) 2 1 0 1 []
     s.work = some (.pixels 2 1 0 1 []) ∧ 1 < 2 * 1 ∧ 0 + 1 + 1 ≤ s.pic.imageSize.toNat ∧ s.img.read (0 + 1) = some 1) ∧
    (let s := atPixel (picture 2 1 4 1 [0xAB]) 2 1 0 1 []
     s.work = some (.pixels 2 1 0 1 []) ∧ 0 + 1 / 2 + 1 ≤ s.pic.imageSize.toNat ∧ s.img.read (0 + 1 / 2) = some 0xAB) := by
  decide

theorem witness_PxUnknownOnPixel : (atPixel State.reset 1 1 0 0 []).work = some (.pixels 1 1 0 0 []) ∧ 0 < 1 * 1 := by decide

theorem witness_IdxOnIndex :
    let s := { r110 with work := some (.palIndex .clut 1 []) }
    s.work = some (.palIndex .clut 1 []) ∧ 1 < s.pic.clutColors.toNat := by decide

theorem witness_ClOnEntry :
    let s := { r110 with work := some (.palEntry .clut 1 1 []) }
    s.work = some (.palEntry .clut 1 1 []) ∧ 4 * 1 + 4 ≤ s.pic.clutSize.toNat ∧
    s.clut.holds (4 * 1) 4 (fun k => [5, 6, 7, 8].getD k 0) := by decide

/-- One byte short for each access width. -/
theorem witness_OperationOverruns :
    (atPixel (picture 1 1 3 1 [0, 0, 0]) 1 1 0 0 []).pic.imageSize.toNat < 0 + 4 * 0 + 4 ∧
    (atPixel (picture 1 1 2 1 [0, 0]) 1 1 0 0 []).pic.imageSize.toNat < 0 + 3 * 0 + 3 ∧
    (atPixel (picture 1 1 1 1 [0]) 1 1 0 0 []).pic.imageSize.toNat < 0 + 2 * 0 + 2 ∧
    (atPixel (picture 1 1 5 1 []) 1 1 0 0 []).pic.imageSize.toNat < 0 + 0 + 1 ∧
    (atPixel (picture 1 1 4 1 []) 1 1 0 0 []).pic.imageSize.toNat < 0 + 0 / 2 + 1 ∧
    (atPixel State.reset 1 1 0 0 []).work = some (.pixels 1 1 0 0 []) ∧ 0 < 1 * 1 ∧
    (let s := { withClut State.reset 0x01 1 [0] with work := some (.palEntry .clut 0 0 []) }
     s.work = some (.palEntry .clut 0 0 []) ∧ s.pic.clutSize.toNat < 2 * 0 + 2 ∧ s.pic.clutSize.toNat < 3 * 0 + 3 ∧
     s.pic.clutSize.toNat < 4 * 0 + 4) := by decide

theorem witness_ClWholePalette :
    ({ State.reset with work := some (.palSelect .clut) } : State).work = some (.palSelect .clut) := rfl

theorem witness_OperationsNeedCommand : State.reset.work = none ∧ Instr.pxRgb16.group ≠ .cmd := by decide

theorem witness_StepRunsCommand :
    let s := { e2 with cmd := some 1 }
    s.noReset ∧ s.work = none ∧ s.cmd = some 1 := by decide

/-- Each place of a command from which a selector is fetched. -/
theorem witness_StepRunsSelector :
    ((atPixel e2 2 1 0 1 []).noReset ∧ (atPixel e2 2 1 0 1 []).work = some (.pixels 2 1 0 1 []) ∧ 1 < 2 * 1) ∧
    (let s := { r110 with work := some (.palIndex .clut 1 [⟨1, 2, 3, 4⟩]) }
     s.noReset ∧ s.work = some (.palIndex .clut 1 [⟨1, 2, 3, 4⟩]) ∧ 1 < s.pic.clutColors.toNat) ∧
    (let s := { r110 with work := some (.palEntry .clut 1 1 [⟨1, 2, 3, 4⟩]) }
     s.noReset ∧ s.work = some (.palEntry .clut 1 1 [⟨1, 2, 3, 4⟩])) ∧
    (let s := { withClut State.reset 0x03 1 [] with work := some (.palSelect .clut) }
     s.noReset ∧ s.work = some (.palSelect .clut) ∧ s.pic.clutSize = 0) ∧
    (let s := { withClut State.reset 0x40 1 [0] with work := some (.palSelect .clut) }
     s.noReset ∧ s.work = some (.palSelect .clut) ∧ s.pic.clutSize ≠ 0 ∧ s.pic.clutType.toNat % 64 = 0) ∧
    (let s := { withClut State.reset 0x04 1 [0] with work := some (.palSelect .clut) }
     s.noReset ∧ s.work = some (.palSelect .clut) ∧ s.pic.clutSize ≠ 0 ∧ 4 ≤ s.pic.clutType.toNat % 64) := by decide

theorem witness_ResetInput : ({ e2 with host := [.rst] } : State).host = [.rst] := rfl

theorem witness_StepServesHost :
    (e2.work = none ∧ e2.cmd = none ∧ e2.host = []) ∧
    (let s := { e2 with host := [.read 0x004] }
     s.work = none ∧ s.cmd = none ∧ s.host = .read 0x004 :: []) := by decide

theorem witness_CmdWriteExecutes :
    let s := { e2 with host := [.write 0 1, .read 0x004] }
    s.work = none ∧ s.cmd = none ∧ s.host = .write 0 1 :: [.read 0x004] ∧
    ([.read 0x004] : List HostEvent).head? ≠ some .rst := by decide

theorem witness_CommandsAtomic :
    let s := { e2 with cmd := some 1, host := [.read 0x004] }
    s.noReset ∧ s.cmd ≠ none ∧ s.work = none ∧ after (step s) (fun t => t.host) = some [.read 0x004] := by decide

theorem witness_DecodeByOperations : v2.noReset ∧ v2.status.fault = false ∧ (1 : BitVec 8).toNat < v2.pic.mipCount.toNat := by
  decide

theorem witness_GetClutByOperations : r110.noReset ∧ r110.status.fault = false := by decide

/-- A size register that is written and one that is not, and their offsets. -/
theorem witness_DescriptorReadBack : 254 < 255 ∧ Register.picMipSize 253 ≠ .picMipSize 254 ∧
    readReg v2 (registerAt 0x404) = 2 ∧ v2.pic.mipWritten.getLsbD 2 = false := by decide +kernel

/-- The last listed offset, the first beyond it, the hole, and an unaligned offset. -/
theorem witness_RegisterOffsets : registerAt 0x7F8 = .picMipSize 254 ∧ registerAt 0x7FC = .reserved ∧
    registerAt 0x024 = .reserved ∧ registerAt 0x3FC = .reserved ∧ registerAt 0x400 = .picMipSize 0 ∧
    registerAt 0x001 = .reserved := by decide

/-- Every listed offset, and two reserved ones. -/
theorem witness_ReadOnlyRegisters : registerAt 0x000 = .cmd ∧ registerAt 0x004 = .status ∧ registerAt 0x008 = .resDim ∧
    registerAt 0x00C = .resCount ∧ registerAt 0x024 = .reserved ∧ registerAt 0x00E = .reserved ∧
    readReg { e2 with resW := 2, resH := 1 } .resDim = 0x00010002 := by decide

theorem witness_OutReadServed :
    let s := { e2 with out := [⟨1, 2, 3, 4⟩] }
    (0 : Word).toNat < s.out.length ∧ s.out.length ≤ (1 : Word).toNat := by decide

/-- The invariant's premise is met by a running state that no one command leaves behind, and a step goes on from it. -/
theorem witness_StepKeepsInv : (beginGetClut r110).Inv ∧ ∃ t, step (beginGetClut r110) = .next t :=
  ⟨{ imgWf := rfl
     clutWf := by decide
     status := ⟨by decide, by decide, by decide⟩
     result := fun h => nomatch h
     faulted := fun h => nomatch h
     running := fun w h => by
       cases h
       exact ⟨rfl, rfl, rfl, trivial⟩ }, _, rfl⟩

end Sys2Proof.Tests
end

section
/-! Purity (R2): what every operation leaves alone, that a command repeats itself, and that its result is a function of the
inputs; and the palette lookup (R98). -/

namespace Sys2Proof.Machine

/-! ### The palette lookup -/

/-- An index below the palette length gives that entry (R98). -/
theorem paletteLookup_of_lt {pal : List Color} {i : Nat} (h : i < pal.length) : paletteLookup pal i = pal[i] := by
  rw [paletteLookup, List.getD_eq_getElem?_getD, List.getElem?_eq_getElem h, Option.getD_some]

/-- Any other index gives the default colour (R4, R98). -/
theorem paletteLookup_of_length_le {pal : List Color} {i : Nat} (h : pal.length ≤ i) :
    paletteLookup pal i = Config.defaultColor := by
  rw [paletteLookup, List.getD_eq_getElem?_getD, List.getElem?_eq_none h, Option.getD_none]

/-- Settles O7: the index is either in range or not. -/
theorem paletteLookupInAndOut : Obligations.PaletteLookupInAndOut :=
  fun _ _ => ⟨paletteLookup_of_lt, paletteLookup_of_length_le⟩

/-! ### Inversion lemmas the commands still lack -/

/-- A level is valid exactly below `PIC.MIP_COUNT` (R71). -/
theorem invalidLevel_eq_false_iff {p : Picture} {level : BitVec 8} :
    p.invalidLevel level = false ↔ level.toNat < p.mipCount.toNat := by
  simp [Picture.invalidLevel]

/-- An invalid level is answered by the empty result (R71). -/
theorem execDecodeImage_invalid {s : State} {level : BitVec 8} (hf : s.status.fault = false)
    (hl : s.pic.invalidLevel level = true) : execDecodeImage level s = .next (emptyResult s) := by
  simp [execDecodeImage, hf, hl]

/-- All that `ILLEGAL` can answer as a next state (R135). -/
theorem execIllegal_next {s t : State} {op : BitVec 8} (h : execIllegal op s = .next t) :
    (s.status.fault = true ∧ t = s) ∨ (s.status.fault = false ∧ t = faultEntry s .illegalCmd) := by
  unfold execIllegal at h
  split at h
  · next hf => cases h; exact .inl ⟨hf, rfl⟩
  · next hf => cases h; exact .inr ⟨eq_false_of_ne_true hf, rfl⟩

/-- `ILLEGAL` while no fault is pending enters the fault `IllegalCommand` (R135). -/
theorem execIllegal_unfaulted {s : State} (op : BitVec 8) (hf : s.status.fault = false) :
    execIllegal op s = .next (faultEntry s .illegalCmd) := by
  simp [execIllegal, hf]

/-- The operations of the command group are the four commands (R51). -/
theorem group_cmd_cases {i : Instr} (h : i.group = .cmd) :
    (∃ level, i = .decodeImage level) ∨ i = .getClut ∨ i = .reset ∨ ∃ op, i = .illegal op := by
  cases i <;> simp [Instr.group] at h ⊢

/-- A command that finds `STATUS.FAULT` set, `RESET` apart, changes nothing (R78). -/
theorem exec_cmd_faulted {i : Instr} {s : State} (hg : i.group = .cmd) (hr : i ≠ .reset) (hf : s.status.fault = true) :
    exec i s = .next s := by
  rcases group_cmd_cases hg with ⟨level, rfl⟩ | rfl | rfl | ⟨op, rfl⟩
  · simp [exec, execDecodeImage, hf]
  · simp [exec, execGetClut, hf]
  · exact absurd rfl hr
  · simp [exec, execIllegal, hf]

/-! ### What every operation leaves alone (R2) -/

/-- The frame of a pixel operation. -/
theorem pixelStep_sameInputs {name : String} {u : Bool} {op : Nat → Nat → List Color → Except Stop Color} {s t : State}
    (h : pixelStep name u op s = .next t) : s.sameInputs t ∧ t.cmd = s.cmd := by
  obtain ⟨_, _, _, _, _, _, _, ⟨_, _, rfl⟩ | ⟨_, _, rfl⟩⟩ := pixelStep_next h
  · simp [State.sameInputs]
  · simp [State.sameInputs]

/-- The frame of an index operation. -/
theorem indexStep_sameInputs {name : String} {f : Nat → Nat} {s t : State} (h : indexStep name f s = .next t) :
    s.sameInputs t ∧ t.cmd = s.cmd := by
  obtain ⟨_, _, _, _, _, rfl⟩ := indexStep_next h
  simp [State.sameInputs]

/-- The frame of an entry operation. -/
theorem entryStep_sameInputs {name : String} {op : Nat → Except Stop Color} {s t : State}
    (h : entryStep name op s = .next t) : s.sameInputs t ∧ t.cmd = s.cmd := by
  obtain ⟨_, _, _, _, _, ⟨_, _, rfl⟩ | ⟨_, _, rfl⟩⟩ := entryStep_next h
  · simp [State.sameInputs]
  · simp [State.sameInputs]

/-- The frame of a whole-palette operation. -/
theorem wholePalette_sameInputs {name : String} {u : Bool} {pal : List Color} {s t : State}
    (h : wholePalette name u pal s = .next t) : s.sameInputs t ∧ t.cmd = s.cmd := by
  obtain ⟨_, _, rfl⟩ := wholePalette_next h
  simp [State.sameInputs]

/-- The frame of `DECODE_IMAGE`. -/
theorem execDecodeImage_sameInputs {s t : State} {level : BitVec 8} (h : execDecodeImage level s = .next t) :
    s.sameInputs t ∧ t.cmd = s.cmd := by
  obtain ⟨_, rfl⟩ | ⟨_, _, rfl⟩ | ⟨_, _, ⟨_, _, _, rfl⟩ | ⟨_, _, rfl⟩⟩ := execDecodeImage_next h
  · simp [State.sameInputs]
  · simp [State.sameInputs]
  · simp [State.sameInputs]
  · simp [State.sameInputs]

/-- The frame of `GET_CLUT`. -/
theorem execGetClut_sameInputs {s t : State} (h : execGetClut s = .next t) : s.sameInputs t ∧ t.cmd = s.cmd := by
  obtain ⟨_, rfl⟩ | ⟨_, ⟨_, _, _, rfl⟩ | ⟨_, _, rfl⟩⟩ := execGetClut_next h
  · simp [State.sameInputs]
  · simp [State.sameInputs]
  · simp [State.sameInputs]

/-- The frame of `ILLEGAL`. -/
theorem execIllegal_sameInputs {s t : State} {op : BitVec 8} (h : execIllegal op s = .next t) :
    s.sameInputs t ∧ t.cmd = s.cmd := by
  obtain ⟨_, rfl⟩ | ⟨_, rfl⟩ := execIllegal_next h
  · simp [State.sameInputs]
  · simp [State.sameInputs]

/-- The frame of all operations but `RESET`: each is one of the shapes above. -/
theorem exec_sameInputs {i : Instr} {s t : State} (hi : i ≠ .reset) (h : exec i s = .next t) :
    s.sameInputs t ∧ t.cmd = s.cmd := by
  cases i with
  | decodeImage => exact execDecodeImage_sameInputs h
  | getClut => exact execGetClut_sameInputs h
  | reset => exact absurd rfl hi
  | illegal op => exact execIllegal_sameInputs (op := op) h
  | pxRgb16 | pxRgb24 | pxRgb32 | pxIdtex4 | pxIdtex8 => exact pixelStep_sameInputs h
  | pxUnknown => exact pixelStep_sameInputs (op := fun _ _ _ => pxUnknown) h
  | clRgb16 | clRgb24 | clRgb32 => exact entryStep_sameInputs h
  | clNone | clUnknown => exact wholePalette_sameInputs h
  | idxCompound | idxLinear => exact indexStep_sameInputs h

/-- Settles O33: the blobs are the same lists, so every byte reads the same. -/
theorem inputsUnchanged : Obligations.InputsUnchanged := by
  intro i s t hi h
  obtain ⟨hsame, hcmd⟩ := exec_sameInputs hi h
  have ⟨_, himg, hclut, _⟩ := hsame
  exact ⟨hsame, hcmd, fun a => by rw [himg], fun a => by rw [hclut]⟩

/-! ### Repetition -/

/-- A result delivered a second time leaves what the first left: the per-command flags are cleared and set again. -/
theorem deliver_startCommand_idem (s : State) (u : Bool) (w h : Nat) (cs : List Color) :
    deliver (flagUnknown (startCommand (deliver (flagUnknown (startCommand s) u) w h cs)) u) w h cs =
      deliver (flagUnknown (startCommand s) u) w h cs := rfl

/-- So does the empty result. -/
theorem emptyResult_idem (s : State) : emptyResult (emptyResult s) = emptyResult s := rfl

/-- So does reset. -/
theorem resetEngine_idem (s : State) : resetEngine (resetEngine s) = resetEngine s := rfl

/-- `DECODE_IMAGE` repeated: a delivered level is decoded from the same inputs, a fault is refused. -/
theorem execDecodeImage_repeats {s t : State} {level : BitVec 8} (h : execDecodeImage level s = .next t) :
    execDecodeImage level t = .next t := by
  obtain ⟨_, rfl⟩ | ⟨hf, hl, rfl⟩ | ⟨hf, hl, ⟨cs, u, hd, rfl⟩ | ⟨space, _, rfl⟩⟩ := execDecodeImage_next h
  · exact h
  · rw [execDecodeImage_invalid (s := emptyResult s) hf hl, emptyResult_idem]
  · refine (execDecodeImage_ok (cs := cs) (u := u) ?_ ?_ ?_).trans ?_
    · exact hf
    · exact invalidLevel_eq_false_iff.mp hl
    · rw [← hd]
      apply decodeLevel_congr <;> rfl
    · exact congrArg _ (deliver_startCommand_idem s u _ _ cs)
  · exact exec_cmd_faulted (i := .decodeImage level) rfl nofun rfl

/-- `GET_CLUT` repeated, likewise. -/
theorem execGetClut_repeats {s t : State} (h : execGetClut s = .next t) : execGetClut t = .next t := by
  obtain ⟨_, rfl⟩ | ⟨hf, ⟨pal, u, hd, rfl⟩ | ⟨space, _, rfl⟩⟩ := execGetClut_next h
  · exact h
  · refine (execGetClut_ok (pal := pal) (u := u) ?_ ?_).trans ?_
    · exact hf
    · rw [← hd]
      exact decodePalette_congr rfl rfl rfl
    · exact congrArg _ (deliver_startCommand_idem s u 0 0 pal)
  · exact exec_cmd_faulted (i := .getClut) rfl nofun rfl

/-- `ILLEGAL` leaves the faulted state, which refuses the second. -/
theorem execIllegal_repeats {s t : State} {op : BitVec 8} (h : execIllegal op s = .next t) :
    execIllegal op t = .next t := by
  obtain ⟨_, rfl⟩ | ⟨_, rfl⟩ := execIllegal_next h
  · exact h
  · exact exec_cmd_faulted (i := .illegal op) rfl nofun rfl

/-- Settles O34, command by command. -/
theorem commandRepeats : Obligations.CommandRepeats := by
  intro i s t hg h
  rcases group_cmd_cases hg with ⟨level, rfl⟩ | rfl | rfl | ⟨op, rfl⟩
  · exact execDecodeImage_repeats h
  · exact execGetClut_repeats h
  · cases h
    exact congrArg Host.Outcome.next (resetEngine_idem s)
  · exact execIllegal_repeats (op := op) h

/-! ### The result as a function of the inputs -/

/-- What a command shows of its result: `STATUS`, `OUT` and `RES_*` (R21, R22, R24). -/
def State.sameResult (t t' : State) : Prop :=
  t'.status = t.status ∧ t'.out = t.out ∧ t'.resW = t.resW ∧ t'.resH = t.resH ∧ t'.resCount = t.resCount

/-- What is left of `STATUS` at acceptance is the fault and its code (R21). -/
theorem started_congr {t t' : Status} (hf : t.fault = t'.fault) (hc : t.faultCode = t'.faultCode) :
    t'.started = t.started := by
  simp [Status.started, hf, hc]

/-- Fault entry shows nothing of the state before (R138). -/
theorem faultEntry_sameResult (s s' : State) (code : FaultCode) :
    (faultEntry s code).sameResult (faultEntry s' code) := by
  simp [State.sameResult]

section
variable {s s' t : State} (hf : s.status.fault = false) (hf' : s'.status.fault = false)
  (hcode : s.status.faultCode = s'.status.faultCode)
include hf hf' hcode

/-- A delivered result shows nothing of the state before but the fault fields. -/
theorem deliver_sameResult (u : Bool) (w h : Nat) (cs : List Color) :
    (deliver (flagUnknown (startCommand s) u) w h cs).sameResult (deliver (flagUnknown (startCommand s') u) w h cs) := by
  simp [State.sameResult, started_congr (hf.trans hf'.symm) hcode]

/-- Nor does the empty result. -/
theorem emptyResult_sameResult : (emptyResult s).sameResult (emptyResult s') := by
  simp [State.sameResult, started_congr (hf.trans hf'.symm) hcode]

variable (hpic : s.pic = s'.pic) (himg : s.img = s'.img) (hclut : s.clut = s'.clut)
include hpic himg hclut

/-- `DECODE_IMAGE` on the same inputs: the same level check and the same decoded level. -/
theorem execDecodeImage_sameResult {level : BitVec 8} (h : execDecodeImage level s = .next t) :
    ∃ t', execDecodeImage level s' = .next t' ∧ t.sameResult t' := by
  have hlevel := decodeLevel_congr hpic himg hclut level
  obtain ⟨hs, _⟩ | ⟨_, hl, rfl⟩ | ⟨_, hl, ⟨cs, u, hd, rfl⟩ | ⟨space, hd, rfl⟩⟩ := execDecodeImage_next h
  · exact absurd hs (by simp [hf])
  · exact ⟨_, execDecodeImage_invalid hf' (hpic ▸ hl), emptyResult_sameResult hf hf' hcode⟩
  · rw [hpic] at hl ⊢
    exact ⟨_, execDecodeImage_ok hf' (invalidLevel_eq_false_iff.mp hl) (hlevel ▸ hd),
      deliver_sameResult hf hf' hcode u _ _ cs⟩
  · rw [hpic] at hl
    have hstop := execDecodeImage_error hf' (invalidLevel_eq_false_iff.mp hl) (hlevel ▸ hd)
    exact ⟨_, hstop.trans (stopWith_overrun s' space), faultEntry_sameResult s s' _⟩

/-- `GET_CLUT` on the same inputs: the same decoded palette. -/
theorem execGetClut_sameResult (h : execGetClut s = .next t) :
    ∃ t', execGetClut s' = .next t' ∧ t.sameResult t' := by
  have hpalette := decodePalette_congr hpic himg hclut
  obtain ⟨hs, _⟩ | ⟨_, ⟨pal, u, hd, rfl⟩ | ⟨space, hd, rfl⟩⟩ := execGetClut_next h
  · exact absurd hs (by simp [hf])
  · exact ⟨_, execGetClut_ok hf' (hpalette ▸ hd), deliver_sameResult hf hf' hcode u 0 0 pal⟩
  · have hstop := execGetClut_error hf' (hpalette ▸ hd)
    exact ⟨_, hstop.trans (stopWith_overrun s' space), faultEntry_sameResult s s' _⟩

end

/-- Settles O35, command by command. -/
theorem resultDependsOnInputs : Obligations.ResultDependsOnInputs := by
  intro i s s' t hg hf hf' hcode hpic himg hclut h
  rcases group_cmd_cases hg with ⟨level, rfl⟩ | rfl | rfl | ⟨op, rfl⟩
  · exact execDecodeImage_sameResult hf hf' hcode hpic himg hclut h
  · exact execGetClut_sameResult hf hf' hcode hpic himg hclut h
  · cases h
    exact ⟨_, rfl, rfl, rfl, rfl, rfl, rfl⟩
  · obtain ⟨hs, _⟩ | ⟨_, rfl⟩ := execIllegal_next (op := op) h
    · exact absurd hs (by simp [hf])
    · exact ⟨_, execIllegal_unfaulted op hf', faultEntry_sameResult s s' _⟩

end Sys2Proof.Machine
end

section
/-! The state as the host sees it: the descriptor and its selectors (R12 to R19), the words of the register map and the host
accesses to it (R28), the blobs and `OUT` through their apertures (R23, R24), and reset (R29). -/

namespace Sys2Proof.Machine

/-! ### Selector bytes -/

/-- The word of a byte-wide group is its byte (R52, R53). -/
@[simp] theorem extractLsb'_zeroExtend_byte (b : Byte) : (b.zeroExtend 32 : Word).extractLsb' 0 8 = b := by
  apply BitVec.eq_of_toNat_eq
  have := b.isLt
  simp
  omega

/-- `PIC.CLUT_TYPE.FMT` as a number (R14, R53). -/
theorem clutFmt_toNat (b : Byte) : (clutFmt b).toNat = b.toNat % 64 := by simp [clutFmt]

/-- Bits 5:0 that hold an entry format's code select it (R53, R112). -/
theorem entryFmt_of_code {b : Byte} {f : DirectFmt} (h : b.toNat % 64 = f.code.toNat) : entryFmt b = some f := by
  have hf : clutFmt b = f.code := BitVec.eq_of_toNat_eq ((clutFmt_toNat b).trans h)
  cases f <;> simp [entryFmt, hf, DirectFmt.code, Config.fmtRgb16, Config.fmtRgb24, Config.fmtRgb32]

/-- Bits 5:0 that hold none of the three codes select no entry format (R53, R112). -/
theorem entryFmt_eq_none {b : Byte} (h : b.toNat % 64 = 0 ∨ 4 ≤ b.toNat % 64) : entryFmt b = none := by
  have hne : ∀ c : BitVec 6, 1 ≤ c.toNat ∧ c.toNat ≤ 3 → clutFmt b ≠ c := fun c _ hc => by
    have := congrArg BitVec.toNat hc
    rw [clutFmt_toNat] at this
    omega
  rw [entryFmt, if_neg (hne _ (by decide)), if_neg (hne _ (by decide)), if_neg (hne _ (by decide))]

/-- The palette format none selects `CL.NONE` (R53, R111). -/
theorem decodeClutFmt_none {b : Byte} (h : b.toNat % 64 = 0) : decodeClutFmt b = .clNone := by
  have hf : clutFmt b = Config.fmtNone := BitVec.eq_of_toNat_eq ((clutFmt_toNat b).trans h)
  simp [decodeClutFmt, hf, Config.fmtRgb16, Config.fmtRgb24, Config.fmtRgb32, Config.fmtNone]

/-! ### The descriptor (R18, R19, R73) -/

/-- R19: what `hasClut()` says. -/
theorem hasClut_iff {p : Picture} : p.hasClut = true ↔ 0 < p.clutSize.toNat ∧ p.clutType.toNat % 64 ≠ 0 := by
  have hsize : p.clutSize ≠ 0 ↔ 0 < p.clutSize.toNat := by
    rw [Nat.pos_iff_ne_zero, ne_eq, ← BitVec.toNat_inj]
    rfl
  have hfmt : clutFmt p.clutType ≠ Config.fmtNone ↔ p.clutType.toNat % 64 ≠ 0 := by
    rw [← clutFmt_toNat, ne_eq, ← BitVec.toNat_inj]
    rfl
  simp only [Picture.hasClut, Bool.and_eq_true, bne_iff_ne, hsize, hfmt]

/-- Settles O10: the second predicate is its own definition. -/
theorem descriptorPredicates : Obligations.DescriptorPredicates :=
  fun _ => ⟨hasClut_iff, by simp [Picture.hasMipMaps]⟩

/-- A level base stays below 2^40: at most 255 sizes of 32 bits are summed (R36, R73). -/
theorem levelBase_lt (p : Picture) (level : BitVec 8) : levelBase p level < 2 ^ 40 := by
  by_cases h : level = 0 ∨ p.mipCount.toNat ≤ 1
  · rw [levelBase_zero h]
    decide
  · obtain ⟨hlevel, hmip⟩ := not_or.mp h
    have hbound := sumMips_bound p level.toNat
    have hlt := level.isLt
    rw [levelBase_sum hlevel (by omega)]
    omega

/-- Settles O15: the sum is the recursion of `sumMips`. -/
theorem levelBaseSum : Obligations.LevelBaseSum := by
  intro p level
  refine ⟨levelBase_zero, fun hlevel hmip => ?_, levelBase_lt p level, fun i => mip_unwritten⟩
  rw [levelBase_sum hlevel hmip, sumMips_eq]

/-! ### Words laid out in fields (R21, R28, R60) -/

/-- Two fields side by side, as a number. -/
theorem toNat_append_eq_add {m n : Nat} (x : BitVec m) (y : BitVec n) :
    (x ++ y).toNat = x.toNat * 2 ^ n + y.toNat := by
  rw [BitVec.toNat_append, ← Nat.shiftLeft_add_eq_or_of_lt y.isLt, Nat.shiftLeft_eq]

/-- The `STATUS` word: each flag in its bit, the fault code in 11:8 (R21). -/
theorem status_toWord_toNat (t : Status) :
    t.toWord.toNat = t.done.toNat + 2 * t.fault.toNat + 4 * t.invalidMip.toNat + 8 * t.unknownFmt.toNat +
      256 * t.faultCode.bits.toNat := by
  simp only [Status.toWord, toNat_append_eq_add, BitVec.toNat_ofBool, BitVec.ofNat_eq_ofNat, BitVec.toNat_zero]
  omega

/-- The word of a Color: `r`, `g`, `b`, `a` in ascending bytes (R60). -/
theorem colorWord_toNat (c : Color) :
    (colorWord c).toNat = c.r.toNat + 256 * c.g.toNat + 65536 * c.b.toNat + 16777216 * c.a.toNat := by
  simp only [colorWord, toNat_append_eq_add]
  omega

/-- Settles O32: the two words, each fault code at its value (R130). -/
theorem statusAndColorWords : Obligations.StatusAndColorWords := by
  refine ⟨fun t => ?_, colorWord_toNat⟩
  rw [status_toWord_toNat]
  cases t.faultCode <;> rfl

/-- A read of `RES_DIM` (R28). -/
theorem readReg_resDim_toNat (s : State) : (readReg s .resDim).toNat = s.resW.toNat + 65536 * s.resH.toNat := by
  simp only [readReg, toNat_append_eq_add]
  omega

/-- A read of `PIC_DIM` (R28). -/
theorem readReg_picDim_toNat (s : State) :
    (readReg s .picDim).toNat = s.pic.width.toNat + 65536 * s.pic.height.toNat := by
  simp only [readReg, toNat_append_eq_add]
  omega

/-- A read of `PIC_FMT` (R28). -/
theorem readReg_picFmt_toNat (s : State) :
    (readReg s .picFmt).toNat =
      s.pic.imgFmt.toNat + 256 * s.pic.clutType.toNat + 65536 * s.pic.mipCount.toNat := by
  simp only [readReg, toNat_append_eq_add, BitVec.ofNat_eq_ofNat, BitVec.toNat_zero]
  omega

/-- A read of `PIC_CLUT_COLORS` (R28). -/
theorem readReg_picClutColors_toNat (s : State) : (readReg s .picClutColors).toNat = s.pic.clutColors.toNat := by
  have := s.pic.clutColors.isLt
  simp [readReg]
  omega

/-! ### Registers written and read back (R28) -/

/-- The number of `n` bits of a word from bit `a` on. -/
theorem toNat_extractLsb'_word (v : Word) (a n : Nat) : (v.extractLsb' a n).toNat = v.toNat / 2 ^ a % 2 ^ n := by
  rw [BitVec.extractLsb'_toNat, Nat.shiftRight_eq_div_pow]

/-- A field of a word is the number its bits hold. -/
theorem extractLsb'_eq_ofNat {v : Word} {a n k : Nat} (h : v.toNat / 2 ^ a % 2 ^ n = k % 2 ^ n) :
    v.extractLsb' a n = BitVec.ofNat n k :=
  BitVec.eq_of_toNat_eq (by rw [toNat_extractLsb'_word, h, BitVec.toNat_ofNat])

section
variable (s : State) (v : Word)

/-- `PIC_DIM` (R12, R28). -/
theorem writeReg_picDim : writeReg s v .picDim = { s with pic := { s.pic with
    width := BitVec.ofNat 16 (v.toNat % 65536), height := BitVec.ofNat 16 (v.toNat / 65536) } } := by
  have hwidth : v.extractLsb' 0 16 = BitVec.ofNat 16 (v.toNat % 65536) := extractLsb'_eq_ofNat (by omega)
  have hheight : v.extractLsb' 16 16 = BitVec.ofNat 16 (v.toNat / 65536) := extractLsb'_eq_ofNat (by omega)
  simp only [writeReg, writePic, hwidth, hheight]

/-- `PIC_FMT` (R13, R14, R17, R28). -/
theorem writeReg_picFmt : writeReg s v .picFmt = { s with pic := { s.pic with
    imgFmt := BitVec.ofNat 8 (v.toNat % 256), clutType := BitVec.ofNat 8 (v.toNat / 256 % 256),
    mipCount := BitVec.ofNat 8 (v.toNat / 65536 % 256) } } := by
  have himg : v.extractLsb' 0 8 = BitVec.ofNat 8 (v.toNat % 256) := extractLsb'_eq_ofNat (by omega)
  have hclut : v.extractLsb' 8 8 = BitVec.ofNat 8 (v.toNat / 256 % 256) := extractLsb'_eq_ofNat (by omega)
  have hmips : v.extractLsb' 16 8 = BitVec.ofNat 8 (v.toNat / 65536 % 256) := extractLsb'_eq_ofNat (by omega)
  simp only [writeReg, writePic, himg, hclut, hmips]

/-- `PIC_CLUT_COLORS` (R15, R28). -/
theorem writeReg_picClutColors : writeReg s v .picClutColors =
    { s with pic := { s.pic with clutColors := BitVec.ofNat 16 (v.toNat % 65536) } } := by
  have hcolors : v.extractLsb' 0 16 = BitVec.ofNat 16 (v.toNat % 65536) := extractLsb'_eq_ofNat (by omega)
  simp only [writeReg, writePic, hcolors]

/-- `PIC_DIM` has no reserved bits (R28). -/
theorem readReg_writeReg_picDim : readReg (writeReg s v .picDim) .picDim = v := by
  apply BitVec.eq_of_toNat_eq
  rw [readReg_picDim_toNat]
  simp only [writeReg, writePic, toNat_extractLsb'_word]
  omega

/-- The high byte of `PIC_FMT` is reserved (R28). -/
theorem readReg_writeReg_picFmt : readReg (writeReg s v .picFmt) .picFmt = v &&& 0x00FFFFFF := by
  have hmask : (v &&& 0x00FFFFFF).toNat = v.toNat % 2 ^ 24 := Nat.and_two_pow_sub_one_eq_mod v.toNat 24
  apply BitVec.eq_of_toNat_eq
  rw [readReg_picFmt_toNat, hmask]
  simp only [writeReg, writePic, toNat_extractLsb'_word]
  omega

/-- The high half of `PIC_CLUT_COLORS` is reserved (R28). -/
theorem readReg_writeReg_picClutColors : readReg (writeReg s v .picClutColors) .picClutColors = v &&& 0x0000FFFF := by
  have hmask : (v &&& 0x0000FFFF).toNat = v.toNat % 2 ^ 16 := Nat.and_two_pow_sub_one_eq_mod v.toNat 16
  apply BitVec.eq_of_toNat_eq
  rw [readReg_picClutColors_toNat, hmask]
  simp only [writeReg, writePic, toNat_extractLsb'_word]
  omega

/-- A write shows in no other register, since no two registers share a field (R28). -/
theorem readReg_writeReg_other {q r : Register} (h : q ≠ r) : readReg (writeReg s v q) r = readReg s r := by
  cases q with
  | cmd | status | resDim | resCount | reserved => cases r <;> rfl
  | picDim => cases r with
    | picDim => exact absurd rfl h
    | _ => rfl
  | picFmt => cases r with
    | picFmt => exact absurd rfl h
    | _ => rfl
  | picClutColors => cases r with
    | picClutColors => exact absurd rfl h
    | _ => rfl
  | picImageSize => cases r with
    | picImageSize => exact absurd rfl h
    | _ => rfl
  | picClutSize => cases r with
    | picClutSize => exact absurd rfl h
    | _ => rfl
  | picMipSize i => cases r with
    | picMipSize j => exact setMip_mip_other _ _ _ _ fun hij => h (hij ▸ rfl)
    | _ => rfl

end

/-- Settles O55: register by register; a `PIC.MIP_SIZE[i]` by the laws of `setMip`. -/
theorem descriptorReadBack : Obligations.DescriptorReadBack := by
  intro s v
  refine ⟨writeReg_picDim s v, writeReg_picFmt s v, writeReg_picClutColors s v, rfl, rfl, ?mipWrite,
    readReg_picDim_toNat s, readReg_picFmt_toNat s, readReg_picClutColors_toNat s, rfl, rfl, fun _ => rfl,
    readReg_writeReg_picDim s v, readReg_writeReg_picFmt s v, readReg_writeReg_picClutColors s v, rfl, rfl,
    fun i hi => setMip_mip_same s.pic i v hi, fun _ _ => readReg_writeReg_other s v, fun _ => rfl, fun _ => rfl,
    fun _ => mip_unwritten⟩
  case mipWrite =>
    exact fun i hi => ⟨s.pic.setMip i v, rfl, setMip_mip_same s.pic i v hi,
      fun j hj => setMip_mip_other s.pic i j v hj.symm, rfl⟩

/-! ### The register map (R28) -/

/-- An offset at which the map lists no aligned word is reserved (R28, log 21). -/
theorem registerAt_reserved {a : Word}
    (h : a.toNat % 4 ≠ 0 ∨ (0x024 ≤ a.toNat ∧ a.toNat < 0x400) ∨ 0x7FC ≤ a.toNat) : registerAt a = .reserved := by
  have hlow : ∀ c : Word, c.toNat % 4 = 0 ∧ c.toNat < 0x024 → a ≠ c := by
    rintro c hc rfl
    omega
  have hmip : ¬ (0x400 ≤ a.toNat ∧ a.toNat < 0x400 + 4 * Config.nMipRegs ∧ a.toNat % 4 = 0) := by
    simp only [Config.nMipRegs]
    omega
  simp [registerAt, hlow, hmip]

/-- `PIC_MIP_SIZE[i]` is at `0x400 + 4*i` (R28). -/
theorem registerAt_picMipSize {i : Nat} (hi : i < 255) : registerAt (BitVec.ofNat 32 (0x400 + 4 * i)) = .picMipSize i := by
  have ha : (BitVec.ofNat 32 (0x400 + 4 * i)).toNat = 0x400 + 4 * i := by
    rw [BitVec.toNat_ofNat]
    omega
  generalize BitVec.ofNat 32 (0x400 + 4 * i) = a at ha
  have hlow : ∀ c : Word, c.toNat < 0x400 → a ≠ c := by
    rintro c hc rfl
    omega
  have hmip : 0x400 ≤ a.toNat ∧ a.toNat < 0x400 + 4 * Config.nMipRegs ∧ a.toNat % 4 = 0 := by
    simp only [Config.nMipRegs]
    omega
  have hindex : (a.toNat - 0x400) / 4 = i := by omega
  simp [registerAt, hlow, hmip, hindex]

/-- Settles O56: the nine single offsets are evaluated. -/
theorem registerOffsets : Obligations.RegisterOffsets :=
  ⟨by decide, fun _ => registerAt_picMipSize, fun _ => registerAt_reserved⟩

/-- Settles O57: a register that is not of the descriptor takes nothing from a write. -/
theorem readOnlyRegisters : Obligations.ReadOnlyRegisters := by
  intro s offset v
  refine ⟨fun hreg => ?_, fun hreg => ?_, rfl, rfl, rfl, readReg_resDim_toNat s⟩
  · rcases hreg with h | h | h | h <;> simp [serve, h, writeReg, writePic]
  · rcases hreg with h | h <;> simp [serve, h, readReg]

/-! ### The apertures (R23, R24, R28) -/

/-- A byte written below the capacity (R23). -/
theorem serveWriteBlob_ok (s : State) (space : Space) {addr : Nat} (b : Byte) (h : addr < Config.blobCap) :
    serveWriteBlob s space addr b = .next (s.withBlob space ((s.blob space).write addr b)) := if_pos h

/-- A byte written beyond every capacity (log 8). -/
theorem serveWriteBlob_outside (s : State) (space : Space) {addr : Nat} (b : Byte) (h : Config.blobCap ≤ addr) :
    serveWriteBlob s space addr b = .fault (.hostOutside space addr) := if_neg (Nat.not_lt.mpr h)

/-- All that a byte write can answer as a next state. -/
theorem serveWriteBlob_next {s t : State} {space : Space} {addr : Nat} {b : Byte}
    (h : serveWriteBlob s space addr b = .next t) :
    addr < Config.blobCap ∧ t = s.withBlob space ((s.blob space).write addr b) := by
  unfold serveWriteBlob at h
  split at h
  · next hlt => cases h; exact ⟨hlt, rfl⟩
  · cases h

/-- All that a byte read can answer as a next state. -/
theorem serveReadBlob_next {s t : State} {space : Space} {addr : Nat} (h : serveReadBlob s space addr = .next t) :
    ∃ b, (s.blob space).read addr = some b ∧ t = { s with rdata := b.zeroExtend 32 } := by
  unfold serveReadBlob at h
  split at h
  · split at h
    · cases h
    · next b hb => cases h; exact ⟨b, hb, rfl⟩
  · cases h

/-- Settles O12: the laws of `Memory.write`. -/
theorem blobWriteServed : Obligations.BlobWriteServed := by
  intro s space addr b hcap
  exact ⟨_, serveWriteBlob_ok s space b hcap, read_write_same _ _ b, fun a ha => read_write_other _ _ a b ha,
    wf_write _ _ b hcap⟩

/-- Settles O13: the three cases of a read, and the one address no blob has. -/
theorem blobReadServed : Obligations.BlobReadServed := by
  intro s space addr
  refine ⟨fun b hin hb => ?_, fun hin hb => ?_, fun hout => ?_, fun b haddr => ?_⟩
  · simp [serve, serveReadBlob, hin, hb]
  · simp [serve, serveReadBlob, hin, hb]
  · simp [serve, serveReadBlob, Nat.not_lt.mpr hout]
  · exact serveWriteBlob_outside s space b (Nat.le_of_eq haddr.symm)

/-- Settles O58: the entry exists or it does not. -/
theorem outReadServed : Obligations.OutReadServed := by
  intro s index
  refine ⟨fun hin => ?_, fun hout => ?_⟩
  · simp [serve, answer, List.getElem?_eq_getElem hin]
  · simp [serve, answer, List.getElem?_eq_none hout]

/-! ### Reset (R29, R80) -/

/-- Settles O26: every `PIC.MIP_SIZE` is marked unwritten, the rest are the reset values. -/
theorem resetState : Obligations.ResetState := by
  refine ⟨rfl, rfl, rfl, rfl, rfl, rfl, rfl, rfl, fun i => mip_unwritten ?_, rfl, by decide, rfl, rfl, rfl, rfl,
    fun _ => rfl, fun _ => rfl, rfl⟩
  exact BitVec.getLsbD_zero

/-- Settles O27: `RESET` is `resetEngine`, whatever `FAULT` is. -/
theorem resetCommand : Obligations.ResetCommand := fun _ => ⟨rfl, rfl⟩

end Sys2Proof.Machine
end

section
/-! The step, place by place: what it runs inside a command (R41, R74, R112), between commands (R38, R39) and on a reset
input (R150). -/

namespace Sys2Proof.Machine

/-! ### Inside a command -/

section
variable {s : State} (hr : s.noReset)
include hr

/-- The level's dimensions and base are computed (R70). -/
theorem step_enterLevel {level : BitVec 8} (hw : s.work = some (.enterLevel level)) :
    step s = .next (enterLevel s level) := step_other (fetch_work hr hw)

/-- The palette of a picture without a CLUT (R111). -/
theorem step_palSelect_noClut {goal : Goal} (hw : s.work = some (.palSelect goal)) (hc : s.pic.hasClut = false) :
    step s = exec .clNone s := step_run ((fetch_work hr hw).trans (by simp [fetchWork, hc]))

/-- The palette of a format that is no entry format (R118). -/
theorem step_palSelect_unknown {goal : Goal} (hw : s.work = some (.palSelect goal)) (hc : s.pic.hasClut = true)
    (hf : entryFmt s.pic.clutType = none) : step s = exec (decodeClutFmt s.pic.clutType) s :=
  step_run ((fetch_work hr hw).trans (by simp [fetchWork, hc, hf]))

/-- The entry loop begins (R112). -/
theorem step_palSelect_entries {goal : Goal} {f : DirectFmt} (hw : s.work = some (.palSelect goal))
    (hc : s.pic.hasClut = true) (hf : entryFmt s.pic.clutType = some f) :
    step s = .next { s with work := some (.palIndex goal 0 []) } :=
  step_other ((fetch_work hr hw).trans (by simp [fetchWork, hc, hf]))

/-- A palette index is remapped (R112). -/
theorem step_palIndex {goal : Goal} {k : Nat} {pal : List Color} (hw : s.work = some (.palIndex goal k pal))
    (hk : k < s.pic.clutColors.toNat) : step s = exec (decodeClutIdx s.pic.clutType) s :=
  step_run ((fetch_work hr hw).trans (by simp [fetchWork, hk]))

/-- The entry loop ends (R112). -/
theorem step_palIndex_done {goal : Goal} {k : Nat} {pal : List Color} (hw : s.work = some (.palIndex goal k pal))
    (hk : ¬ k < s.pic.clutColors.toNat) : step s = .next { s with work := some (.ready goal pal) } :=
  step_other ((fetch_work hr hw).trans (by simp [fetchWork, hk]))

/-- A raw entry is read (R112). -/
theorem step_palEntry {goal : Goal} {k j : Nat} {pal : List Color} (hw : s.work = some (.palEntry goal k j pal)) :
    step s = exec (decodeClutFmt s.pic.clutType) s := step_run (fetch_work hr hw)

/-- The palette is complete (R77, R110). -/
theorem step_ready {goal : Goal} {pal : List Color} (hw : s.work = some (.ready goal pal)) :
    step s = paletteReady s pal goal := step_other (fetch_work hr hw)

/-- A pixel is decoded (R74, R75). -/
theorem step_pixels {w h base p : Nat} {pal : List Color} (hw : s.work = some (.pixels w h base p pal))
    (hp : p < w * h) : step s = exec (decodeImgFmt s.pic.imgFmt) s :=
  step_run ((fetch_work hr hw).trans (by simp [fetchWork, hp]))

/-- The pixel loop ends (R74, R76). -/
theorem step_pixels_done {w h base p : Nat} {pal : List Color} (hw : s.work = some (.pixels w h base p pal))
    (hp : ¬ p < w * h) : step s = .next (deliver s w h s.out) :=
  step_other ((fetch_work hr hw).trans (by simp [fetchWork, hp]))

/-! ### Between commands -/

/-- A pending command word is decoded and executed, `CMD` being taken (R20, R38). -/
theorem step_command {w : Word} (hw : s.work = none) (hc : s.cmd = some w) :
    step s = exec (decodeCmd w) { s with cmd := none } := step_run ((fetch_idle hr hw).trans (by simp [fetchIdle, hc]))

/-- With nothing pending the oldest host access is served (R39). -/
theorem step_serve {e : HostEvent} {rest : List HostEvent} (hw : s.work = none) (hc : s.cmd = none)
    (hh : s.host = e :: rest) : step s = serve { s with host := rest } e :=
  step_other ((fetch_idle hr hw).trans (by simp [fetchIdle, hc, hh]))

/-- With nothing at all to do the engine waits (R39, R150). -/
theorem step_wait (hw : s.work = none) (hc : s.cmd = none) (hh : s.host = []) : step s = .next s :=
  step_other ((fetch_idle hr hw).trans (by simp [fetchIdle, hc, hh]))

end

/-- Settles O46. -/
theorem stepRunsCommand : Obligations.StepRunsCommand := fun _ _ hr hw hc => step_command hr hw hc

/-- Settles O47: at each place the step's own lemma, and of the two ways to have no entry format the format none is `CL.NONE`
in the selector too. -/
theorem stepRunsSelector : Obligations.StepRunsSelector := by
  intro s hr
  simp only [decodeWord, extractLsb'_zeroExtend_byte]
  refine ⟨fun _ _ _ _ _ => step_pixels hr, fun _ _ _ => step_palIndex hr, fun _ _ _ _ => step_palEntry hr, ?_, ?_⟩
  · intro goal hw hsize
    exact step_palSelect_noClut hr hw (by simp [Picture.hasClut, hsize])
  · intro goal hw hsize hfmt
    cases hc : s.pic.hasClut with
    | true => exact step_palSelect_unknown hr hw hc (entryFmt_eq_none hfmt)
    | false =>
      have hzero : s.pic.clutType.toNat % 64 = 0 := by
        have hpos : 0 < s.pic.clutSize.toNat := Nat.pos_of_ne_zero fun h0 => hsize (BitVec.eq_of_toNat_eq h0)
        exact Decidable.byContradiction fun hne => absurd (hasClut_iff.mpr ⟨hpos, hne⟩) (by simp [hc])
      rw [decodeClutFmt_none hzero]
      exact step_palSelect_noClut hr hw hc

/-- Settles O48. -/
theorem resetInput : Obligations.ResetInput := fun _ _ h => step_rst h

/-- Two steps are a step after a step. -/
theorem runSteps_two {s t : State} (h : step s = .next t) : runSteps 2 s = step t := by
  simp only [runSteps, h]
  cases step t <;> rfl

/-- Settles O50: the first step serves the write, the second runs the command. -/
theorem cmdWriteExecutes : Obligations.CmdWriteExecutes := by
  intro s w rest hw hc hh hrest
  have hserve : step s = .next { s with host := rest, cmd := some w } := step_serve (by simp [hh]) hw hc hh
  have hrun := step_command (s := { s with host := rest, cmd := some w }) hrest hw rfl
  rw [runSteps_two hserve, hrun, ← hc]
  rfl

/-! ### Outside a command -/

section
variable {s : State} (hw : s.work = none)
include hw

/-- No pixel is current (R25). -/
theorem pixelStep_idle (name : String) (u : Bool) (op : Nat → Nat → List Color → Except Stop Color) :
    pixelStep name u op s = .refused (.outsideCommand name) := by simp [pixelStep, hw]

/-- No palette index is current (R25). -/
theorem indexStep_idle (name : String) (f : Nat → Nat) : indexStep name f s = .refused (.outsideCommand name) := by
  simp [indexStep, hw]

/-- No raw entry is in hand (R25). -/
theorem entryStep_idle (name : String) (op : Nat → Except Stop Color) :
    entryStep name op s = .refused (.outsideCommand name) := by simp [entryStep, hw]

/-- No palette is being decoded (R26). -/
theorem wholePalette_idle (name : String) (u : Bool) (pal : List Color) :
    wholePalette name u pal s = .refused (.outsideCommand name) := by simp [wholePalette, hw]

end

/-- Settles O45: each operation of the loops is one of the four shapes above. -/
theorem operationsNeedCommand : Obligations.OperationsNeedCommand := by
  intro s i hw hg
  cases i with
  | decodeImage | getClut | reset | illegal => exact absurd rfl hg
  | pxRgb16 | pxRgb24 | pxRgb32 | pxIdtex4 | pxIdtex8 => exact pixelStep_idle hw _ _ _
  | pxUnknown => exact pixelStep_idle hw "PX.UNKNOWN" true fun _ _ _ => pxUnknown
  | clRgb16 | clRgb24 | clRgb32 => exact entryStep_idle hw _ _
  | clNone | clUnknown => exact wholePalette_idle hw _ _ _
  | idxCompound | idxLinear => exact indexStep_idle hw _ _

end Sys2Proof.Machine
end

section
/-! The invariant (R21, R22, R24, R25, R137, R138): it holds at reset, every operation keeps it, and so does every step. -/

namespace Sys2Proof.Machine

/-! ### Where the invariant comes from -/

/-- `STATUS` while no fault is pending: the flags fit together as long as the two format flags do (R21, R137). -/
theorem consistent_of_unfaulted {t : Status} (hf : t.fault = false) (hc : t.faultCode = .none)
    (hx : ¬ (t.invalidMip = true ∧ t.unknownFmt = true)) : t.consistent := by
  simp [Status.consistent, hf, hc, hx]

/-- With no fault pending there is no fault code (R21). -/
theorem State.Inv.faultCode_none {s : State} (h : s.Inv) (hf : s.status.fault = false) : s.status.faultCode = .none := by
  obtain ⟨_, hcode, _⟩ := h.status
  simpa [hf] using hcode

/-- Reset leaves a state with the invariant, whatever the host has pending (R29). -/
theorem resetEngine_inv (s : State) : (resetEngine s).Inv where
  imgWf := rfl
  clutWf := rfl
  status := consistent_of_unfaulted rfl rfl (by simp [Status.reset])
  result := fun _ => ⟨rfl, .inr ⟨rfl, rfl⟩⟩
  faulted := nofun
  running := nofun

/-- Settles O59: the reset state is what reset leaves of it. -/
theorem invAtReset : Obligations.InvAtReset := resetEngine_inv State.reset

/-- Fault entry with a cause keeps the invariant (R138). -/
theorem faultEntry_inv {s : State} (h : s.Inv) {code : FaultCode} (hc : code ≠ .none) : (faultEntry s code).Inv where
  imgWf := h.imgWf
  clutWf := h.clutWf
  status := by simp [Status.consistent, hc]
  result := fun _ => ⟨rfl, .inr ⟨rfl, rfl⟩⟩
  faulted := fun _ => ⟨rfl, rfl, rfl, rfl, rfl⟩
  running := nofun

/-- A result delivered with no fault pending has the invariant where its count fits in `RES_COUNT` and its dimensions, if
any, multiply to it (R22, R76). Of the state before, only `STATUS` may have changed. -/
theorem deliver_inv {s : State} {st : Status} {w h : Nat} {cs : List Color} (hs : s.Inv) (hf : st.fault = false)
    (hstatus : st.consistent) (hlen : cs.length < 2 ^ 32)
    (hdim : w < 2 ^ 16 ∧ h < 2 ^ 16 ∧ cs.length = w * h ∨ w = 0 ∧ h = 0) :
    (deliver { s with status := st } w h cs).Inv where
  imgWf := hs.imgWf
  clutWf := hs.clutWf
  status := by
    obtain ⟨_, hcode, hflags⟩ := hstatus
    exact consistent_of_unfaulted hf (by simpa [hf] using hcode) hflags
  result := fun _ => by
    simp only [deliver_out, deliver_resW, deliver_resH, deliver_resCount, BitVec.toNat_ofNat, Nat.mod_eq_of_lt hlen,
      true_and]
    rcases hdim with ⟨hw, hh, hl⟩ | ⟨rfl, rfl⟩
    · exact .inl (by rw [Nat.mod_eq_of_lt hw, Nat.mod_eq_of_lt hh, hl])
    · exact .inr ⟨rfl, rfl⟩
  faulted := fun hfault => absurd (hf.symm.trans hfault) (by simp)
  running := nofun

/-- Inside a command the invariant is carried on by keeping the blobs, changing `STATUS` at most by the flag `UNKNOWN_FMT`
(R21), and keeping the cursors in range (R25). -/
theorem running_inv {s t : State} {w w' : Work} (h : s.Inv) (hw : s.work = some w) (himg : t.img = s.img)
    (hclut : t.clut = s.clut) {u : Bool} (hstatus : t.status = s.status.flagUnknown u) (hw' : t.work = some w')
    (hrange : t.workInRange w') : t.Inv := by
  obtain ⟨hdone, hfault, hmip, _⟩ := h.running w hw
  exact {
    imgWf := himg ▸ h.imgWf
    clutWf := hclut ▸ h.clutWf
    status := hstatus ▸ consistent_of_unfaulted hfault (h.faultCode_none hfault) (by simp [hmip])
    result := fun hn => by simp [hw'] at hn
    faulted := fun hf => by simp [hstatus, hfault] at hf
    running := fun w'' hw'' => by
      obtain rfl : w' = w'' := Option.some.inj (hw'.symm.trans hw'')
      exact ⟨by simp [hstatus, hdone], by simp [hstatus, hfault], by simp [hstatus, hmip], hrange⟩ }

/-- Between commands the invariant looks at the blobs, `STATUS` and the result only. -/
theorem idle_inv {s t : State} (h : s.Inv) (hw : s.work = none) (hw' : t.work = none) (himg : t.img.wf = true)
    (hclut : t.clut.wf = true) (hstatus : t.status = s.status) (hout : t.out = s.out) (hresW : t.resW = s.resW)
    (hresH : t.resH = s.resH) (hcount : t.resCount = s.resCount) : t.Inv where
  imgWf := himg
  clutWf := hclut
  status := hstatus ▸ h.status
  result := fun _ => by simpa only [hout, hresW, hresH, hcount] using h.result hw
  faulted := fun hf => by
    obtain ⟨h1, h2, h3, h4, _⟩ := h.faulted (hstatus ▸ hf)
    exact ⟨hout.trans h1, hresW.trans h2, hresH.trans h3, hcount.trans h4, hw'⟩
  running := fun w hsome => by simp [hw'] at hsome

/-- The flag `UNKNOWN_FMT` not raised. -/
@[simp] theorem status_flagUnknown_false (t : Status) : t.flagUnknown false = t := by simp [Status.flagUnknown]

/-! ### Every operation keeps it -/

/-- An accepted command that delivers a result. -/
theorem deliver_started_inv {s : State} (hs : s.Inv) (hf : s.status.fault = false) (u : Bool) {w h : Nat} {cs : List Color}
    (hlen : cs.length < 2 ^ 32) (hdim : w < 2 ^ 16 ∧ h < 2 ^ 16 ∧ cs.length = w * h ∨ w = 0 ∧ h = 0) :
    (deliver (flagUnknown (startCommand s) u) w h cs).Inv :=
  deliver_inv (s := s) (st := s.status.started.flagUnknown u) hs hf
    (consistent_of_unfaulted hf (hs.faultCode_none hf) (by simp)) hlen hdim

/-- The empty result (R71). -/
theorem emptyResult_inv {s : State} (hs : s.Inv) (hf : s.status.fault = false) : (emptyResult s).Inv :=
  deliver_inv hs hf (consistent_of_unfaulted hf (hs.faultCode_none hf) (by simp)) (by simp)
    (.inr ⟨rfl, rfl⟩)

/-- A level has fewer pixels than `RES_COUNT` can hold (R72, R81). -/
theorem mul_lt_two_pow_32 {w h : Nat} (hw : w ≤ 65535) (hh : h ≤ 65535) : w * h < 2 ^ 32 := by
  have := Nat.mul_le_mul hw hh
  omega

/-- `DECODE_IMAGE`: a level delivered has `w*h` Colors. -/
theorem execDecodeImage_inv {s t : State} {level : BitVec 8} (hs : s.Inv) (ht : execDecodeImage level s = .next t) :
    t.Inv := by
  obtain ⟨_, rfl⟩ | ⟨hf, _, rfl⟩ | ⟨hf, _, ⟨cs, u, hd, rfl⟩ | ⟨space, _, rfl⟩⟩ := execDecodeImage_next ht
  · exact hs
  · exact emptyResult_inv hs hf
  · have hlen := decodeLevel_length hd
    have hw : s.pic.levelW level ≤ 65535 := levelDim_le _ _
    have hh : s.pic.levelH level ≤ 65535 := levelDim_le _ _
    exact deliver_started_inv hs hf u (hlen ▸ mul_lt_two_pow_32 hw hh) (.inl ⟨by omega, by omega, hlen⟩)
  · exact faultEntry_inv hs (overrunCode_ne_none space)

/-- `GET_CLUT`: a palette delivered has no dimensions. -/
theorem execGetClut_inv {s t : State} (hs : s.Inv) (ht : execGetClut s = .next t) : t.Inv := by
  obtain ⟨_, rfl⟩ | ⟨hf, ⟨pal, u, hd, rfl⟩ | ⟨space, _, rfl⟩⟩ := execGetClut_next ht
  · exact hs
  · have hlen := decodePalette_length hd
    exact deliver_started_inv hs hf u (by omega) (.inr ⟨rfl, rfl⟩)
  · exact faultEntry_inv hs (overrunCode_ne_none space)

/-- `ILLEGAL`. -/
theorem execIllegal_inv {s t : State} {op : BitVec 8} (hs : s.Inv) (ht : execIllegal op s = .next t) : t.Inv := by
  obtain ⟨_, rfl⟩ | ⟨_, rfl⟩ := execIllegal_next ht
  · exact hs
  · exact faultEntry_inv hs (by decide)

/-- A pixel operation: `OUT` grows with `P`. -/
theorem pixelStep_inv {name : String} {u : Bool} {op : Nat → Nat → List Color → Except Stop Color} {s t : State}
    (hs : s.Inv) (ht : pixelStep name u op s = .next t) : t.Inv := by
  obtain ⟨w, h, base, p, pal, hw, hp, ⟨c, _, rfl⟩ | ⟨space, _, rfl⟩⟩ := pixelStep_next ht
  · obtain ⟨_, _, _, hdims, _, hout, hpal⟩ := hs.running _ hw
    exact running_inv hs hw rfl rfl rfl rfl ⟨hdims, hp, by simp [hout], hpal⟩
  · exact faultEntry_inv hs (overrunCode_ne_none space)

/-- An index operation, whatever raw entry it names. -/
theorem indexStep_inv {name : String} {f : Nat → Nat} {s t : State} (hs : s.Inv) (ht : indexStep name f s = .next t) :
    t.Inv := by
  obtain ⟨goal, k, pal, hw, hk, rfl⟩ := indexStep_next ht
  obtain ⟨_, _, _, hgoal, hlen, _⟩ := hs.running _ hw
  exact running_inv hs hw rfl rfl (status_flagUnknown_false _).symm rfl ⟨hgoal, hlen, hk⟩

/-- An entry operation: `PAL` grows with `K`. -/
theorem entryStep_inv {name : String} {op : Nat → Except Stop Color} {s t : State} (hs : s.Inv)
    (ht : entryStep name op s = .next t) : t.Inv := by
  obtain ⟨goal, k, j, pal, hw, ⟨c, _, rfl⟩ | ⟨space, _, rfl⟩⟩ := entryStep_next ht
  · obtain ⟨_, _, _, hgoal, hlen, hk⟩ := hs.running _ hw
    exact running_inv hs hw rfl rfl (status_flagUnknown_false _).symm rfl ⟨hgoal, by simp [hlen], hk⟩
  · exact faultEntry_inv hs (overrunCode_ne_none space)

/-- A whole palette of a length that `PIC.CLUT_COLORS` can hold. -/
theorem wholePalette_inv {name : String} {u : Bool} {pal : List Color} {s t : State} (hs : s.Inv)
    (hpal : pal.length ≤ 65535) (ht : wholePalette name u pal s = .next t) : t.Inv := by
  obtain ⟨goal, hw, rfl⟩ := wholePalette_next ht
  obtain ⟨_, _, _, hgoal⟩ := hs.running _ hw
  exact running_inv hs hw rfl rfl rfl rfl ⟨hgoal, hpal⟩

/-- The palette of `CL.UNKNOWN` has such a length (R118). -/
theorem unknownPalette_length_le (s : State) : (unknownPalette s).length ≤ 65535 := by
  have := s.pic.clutColors.isLt
  simp only [unknownPalette, List.length_replicate]
  omega

/-- Every operation keeps the invariant, wherever it is asked for: each is one of the shapes above. -/
theorem exec_inv {i : Instr} {s t : State} (hs : s.Inv) (ht : exec i s = .next t) : t.Inv := by
  cases i with
  | decodeImage => exact execDecodeImage_inv hs ht
  | getClut => exact execGetClut_inv hs ht
  | reset => cases ht; exact resetEngine_inv s
  | illegal op => exact execIllegal_inv (op := op) hs ht
  | pxRgb16 | pxRgb24 | pxRgb32 | pxIdtex4 | pxIdtex8 => exact pixelStep_inv hs ht
  | pxUnknown => exact pixelStep_inv (op := fun _ _ _ => pxUnknown) hs ht
  | clRgb16 | clRgb24 | clRgb32 => exact entryStep_inv hs ht
  | clNone => exact wholePalette_inv hs (Nat.zero_le _) ht
  | clUnknown => exact wholePalette_inv hs (unknownPalette_length_le s) ht
  | idxCompound | idxLinear => exact indexStep_inv hs ht

/-! ### Every step keeps it -/

/-- Inside a command: a selected operation, or the command's own control where a loop begins or ends (R70, R74, R112). -/
theorem step_running_inv {s t : State} {w : Work} (hs : s.Inv) (hr : s.noReset) (hw : s.work = some w)
    (ht : step s = .next t) : t.Inv := by
  obtain ⟨_, hfault, _, hrange⟩ := hs.running w hw
  have hstatus : s.status = s.status.flagUnknown false := (status_flagUnknown_false _).symm
  cases w with
  | enterLevel level =>
    cases (step_enterLevel hr hw).symm.trans ht
    have hgoal : (Goal.image (s.pic.levelW level) (s.pic.levelH level) (levelBase s.pic level)).inRange :=
      ⟨levelDim_pos _ _, levelDim_le _ _, levelDim_pos _ _, levelDim_le _ _⟩
    rcases enterLevel_work s level with hw' | hw'
    · exact running_inv hs hw rfl rfl hstatus hw' hgoal
    · exact running_inv hs hw rfl rfl hstatus hw' ⟨hgoal, Nat.zero_le _⟩
  | palSelect goal =>
    cases hc : s.pic.hasClut with
    | false => exact exec_inv hs ((step_palSelect_noClut hr hw hc).symm.trans ht)
    | true =>
      cases hf : entryFmt s.pic.clutType with
      | none => exact exec_inv hs ((step_palSelect_unknown hr hw hc hf).symm.trans ht)
      | some f =>
        cases (step_palSelect_entries hr hw hc hf).symm.trans ht
        exact running_inv hs hw rfl rfl hstatus rfl ⟨hrange, rfl, Nat.zero_le _⟩
  | palIndex goal k pal =>
    obtain ⟨hgoal, hlen, hle⟩ := hrange
    by_cases hk : k < s.pic.clutColors.toNat
    · exact exec_inv hs ((step_palIndex hr hw hk).symm.trans ht)
    · cases (step_palIndex_done hr hw hk).symm.trans ht
      exact running_inv hs hw rfl rfl hstatus rfl ⟨hgoal, by omega⟩
  | palEntry goal k j pal => exact exec_inv hs ((step_palEntry hr hw).symm.trans ht)
  | ready goal pal =>
    obtain ⟨hgoal, hlen⟩ := hrange
    have ht := (step_ready hr hw).symm.trans ht
    cases goal with
    | clut =>
      cases ht
      exact deliver_inv hs hfault hs.status (by omega) (.inr ⟨rfl, rfl⟩)
    | image w h base =>
      cases ht
      exact running_inv hs hw rfl rfl hstatus rfl ⟨hgoal, Nat.zero_le _, rfl, hlen⟩
  | pixels w h base p pal =>
    obtain ⟨⟨_, hwle, _, hhle⟩, hle, hout, _⟩ := hrange
    by_cases hp : p < w * h
    · exact exec_inv hs ((step_pixels hr hw hp).symm.trans ht)
    · cases (step_pixels_done hr hw hp).symm.trans ht
      have hlen : s.out.length = w * h := by omega
      exact deliver_inv hs hfault hs.status (hlen ▸ mul_lt_two_pow_32 hwle hhle) (.inl ⟨by omega, by omega, hlen⟩)

/-- A host access between commands changes no part of the result, and a blob only by a byte it writes (R28). -/
theorem serve_inv {s t : State} {e : HostEvent} (hs : s.Inv) (hw : s.work = none) (ht : serve s e = .next t) : t.Inv := by
  have himg := hs.imgWf
  have hclut := hs.clutWf
  cases e with
  | write offset v =>
    cases ht
    cases registerAt offset <;> exact idle_inv hs hw hw himg hclut rfl rfl rfl rfl rfl
  | read offset => cases ht; exact idle_inv hs hw hw himg hclut rfl rfl rfl rfl rfl
  | writeBlob space addr b =>
    obtain ⟨himg', hclut'⟩ := serveWriteBlob_wf ht himg hclut
    obtain ⟨_, rfl⟩ := serveWriteBlob_next ht
    cases space <;> exact idle_inv hs hw hw himg' hclut' rfl rfl rfl rfl rfl
  | readBlob space addr =>
    obtain ⟨_, _, rfl⟩ := serveReadBlob_next ht
    exact idle_inv hs hw hw himg hclut rfl rfl rfl rfl rfl
  | readOut index =>
    cases ht
    cases (s.out[index.toNat]?).map colorWord <;> exact idle_inv hs hw hw himg hclut rfl rfl rfl rfl rfl
  | rst => cases ht; exact resetEngine_inv s

/-- Between commands: the pending command, the next host access, or waiting (R39). -/
theorem step_idle_inv {s t : State} (hs : s.Inv) (hr : s.noReset) (hw : s.work = none) (ht : step s = .next t) :
    t.Inv := by
  have taken : ∀ (cmd : Option Word) (host : List HostEvent), ({ s with cmd := cmd, host := host } : State).Inv :=
    fun _ _ => idle_inv hs hw hw hs.imgWf hs.clutWf rfl rfl rfl rfl rfl
  cases hc : s.cmd with
  | some w => exact exec_inv (taken none s.host) ((step_command hr hw hc).symm.trans ht)
  | none =>
    cases hh : s.host with
    | nil =>
      cases (step_wait hr hw hc hh).symm.trans ht
      exact hs
    | cons e rest => exact serve_inv (taken s.cmd rest) hw ((step_serve hr hw hc hh).symm.trans ht)

/-- Settles O60: a step is a reset, a step inside a command, or one between commands. -/
theorem stepKeepsInv : Obligations.StepKeepsInv := by
  intro s t hs ht
  by_cases hr : s.noReset
  · cases hw : s.work with
    | some w => exact step_running_inv hs hr hw ht
    | none => exact step_idle_inv hs hr hw ht
  · obtain ⟨rest, hh⟩ : ∃ rest, s.host = .rst :: rest := List.head?_eq_some_iff.mp (Decidable.not_not.mp hr)
    cases (step_rst hh).symm.trans ht
    exact resetEngine_inv _

end Sys2Proof.Machine
end

section
/-! Where a command stops by name (R29, U7): never while every byte of both blobs is written, whatever the size registers hold;
else at the first byte of the palette's entries, or of the level's pixels, that the host has not written. -/

namespace Sys2Proof.Machine

/-! ### Blobs written throughout -/

/-- If it stops at all, it stops at an overrun (R134), which is a next state and not a stop of the model (R138). -/
def OnlyOverruns {α : Type} (x : Except Stop α) : Prop := ∀ e, x = .error e → ∃ space, e = .overrun space

theorem onlyOverruns_ok {α : Type} (a : α) : OnlyOverruns (.ok a : Except Stop α) := nofun

theorem OnlyOverruns.map {α β : Type} {x : Except Stop α} (h : OnlyOverruns x) (g : α → β) : OnlyOverruns (x.map g) := by
  cases x with
  | ok a => exact onlyOverruns_ok (g a)
  | error e => exact fun e' he' => by cases he'; exact h e rfl

theorem OnlyOverruns.ite {α : Type} {c : Prop} [Decidable c] {x y : Except Stop α} (hx : OnlyOverruns x)
    (hy : OnlyOverruns y) : OnlyOverruns (if c then x else y) := by
  split
  · exact hx
  · exact hy

/-- A stop at an overrun goes on to a next state. -/
theorem OnlyOverruns.stopWith_next {α : Type} {x : Except Stop α} {e : Stop} (h : OnlyOverruns x) (he : x = .error e)
    (s : State) : ∃ t, stopWith s e = .next t := by
  obtain ⟨space, rfl⟩ := h e he
  exact ⟨_, stopWith_overrun s space⟩

/-- A loop whose turns stop only at overruns does so too. -/
theorem collect_onlyOverruns {f : Nat → Except Stop Color} (h : ∀ i, OnlyOverruns (f i)) :
    ∀ n p : Nat, OnlyOverruns (collect f p n)
  | 0, _ => onlyOverruns_ok []
  | n + 1, p => by
    unfold collect
    split
    · next e he =>
      intro e' he'
      cases he'
      exact h p e he
    · exact (collect_onlyOverruns h n (p + 1)).map _

/-- `MemRead` of a space whose bytes are all written (R32). -/
theorem memRead_onlyOverruns {s : State} {space : Space} (hw : (s.blob space).written (s.blobSize space)) (addr n : Nat) :
    OnlyOverruns (memRead s space addr n) := by
  rcases memRead_written (addr := addr) (n := n) hw with ⟨_, bs, hok, _⟩ | ⟨_, hover⟩
  · exact hok ▸ onlyOverruns_ok bs
  · exact hover ▸ fun e he => by cases he; exact ⟨space, rfl⟩

/-- A palette, with every byte of `CLUT` written. -/
theorem decodePalette_onlyOverruns {s : State} (hw : s.clut.written s.pic.clutSize.toNat) :
    OnlyOverruns (decodePalette s) := by
  unfold decodePalette
  split
  · split
    · exact onlyOverruns_ok _
    · exact (collect_onlyOverruns (fun k => (memRead_onlyOverruns (space := .clut) hw _ _).map _) _ _).map _
  · exact onlyOverruns_ok _

/-- A pixel of any format, with every byte of `IMG` written. -/
theorem pixelAt_onlyOverruns {s : State} (hw : s.img.written s.pic.imageSize.toNat) (base : Nat) (pal : List Color)
    (p : Nat) : OnlyOverruns (pixelAt s base pal p) := by
  have hread := memRead_onlyOverruns (space := .img) hw
  exact .ite ((hread _ _).map _) (.ite ((hread _ _).map _) (.ite ((hread _ _).map _) (.ite ((hread _ _).map _)
    (.ite ((hread _ _).map _) (onlyOverruns_ok _)))))

/-- A level, with every byte of both blobs written. -/
theorem decodeLevel_onlyOverruns {s : State} (himg : s.img.written s.pic.imageSize.toNat)
    (hclut : s.clut.written s.pic.clutSize.toNat) (level : BitVec 8) : OnlyOverruns (decodeLevel s level) := by
  have hpalette : OnlyOverruns (imagePalette s) := by
    unfold imagePalette
    split
    · exact decodePalette_onlyOverruns hclut
    · exact onlyOverruns_ok _
  cases hp : imagePalette s with
  | error e => exact decodeLevel_palette_stop hp ▸ fun e' he' => by cases he'; exact hpalette e hp
  | ok x => exact decodeLevel_pixels hp ▸ (collect_onlyOverruns (pixelAt_onlyOverruns himg _ _) _ _).map _

/-- `DECODE_IMAGE` with every byte of both blobs written always answers a next state. -/
theorem execDecodeImage_written {s : State} (hf : s.status.fault = false) (himg : s.img.written s.pic.imageSize.toNat)
    (hclut : s.clut.written s.pic.clutSize.toNat) (level : BitVec 8) : ∃ t, execDecodeImage level s = .next t := by
  cases hl : s.pic.invalidLevel level with
  | true => exact ⟨_, execDecodeImage_invalid hf hl⟩
  | false =>
    have hl := invalidLevel_eq_false_iff.mp hl
    cases hd : decodeLevel s level with
    | ok x => exact ⟨_, execDecodeImage_ok hf hl hd⟩
    | error e =>
      rw [execDecodeImage_error hf hl hd]
      exact (decodeLevel_onlyOverruns himg hclut level).stopWith_next hd s

/-- So does `GET_CLUT`, for which `CLUT` is enough. -/
theorem execGetClut_written {s : State} (hf : s.status.fault = false) (hclut : s.clut.written s.pic.clutSize.toNat) :
    ∃ t, execGetClut s = .next t := by
  cases hd : decodePalette s with
  | ok x => exact ⟨_, execGetClut_ok hf hd⟩
  | error e =>
    rw [execGetClut_error hf hd]
    exact (decodePalette_onlyOverruns hclut).stopWith_next hd s

/-! ### One datum, its bytes written or not -/

section
variable {α : Type} {s : State} {space : Space} {addr n : Nat} (hin : addr + n ≤ s.blobSize space) (g : List Byte → α)
include hin

/-- A datum inside the space, each of its bytes written. -/
theorem memRead_map_ok (hb : ∀ j, j < n → (s.blob space).read (addr + j) ≠ none) :
    ∃ c, (memRead s space addr n).map g = .ok c := by
  rw [memRead, if_neg (Nat.not_lt.mpr hin)]
  rcases readBytes_cases s space n addr with ⟨bs, hok, _⟩ | ⟨a, hlow, hhigh, hnone, _⟩
  · exact ⟨g bs, by rw [hok]; rfl⟩
  · have := hb (a - addr) (by omega)
    rw [Nat.add_sub_cancel' hlow] at this
    exact absurd hnone this

/-- A datum inside the space, byte `k` the first not written. -/
theorem memRead_map_unwritten {k : Nat} (hk : k < n) (hb : ∀ j, j < k → (s.blob space).read (addr + j) ≠ none)
    (hn : (s.blob space).read (addr + k) = none) :
    (memRead s space addr n).map g = .error (.unwritten space (addr + k)) := by
  rw [memRead_unwritten hin hk hb hn]
  rfl

end

/-! ### The first unwritten byte of the palette -/

/-- The loop over the entries stops for the first entry that stops (R112, R137). -/
theorem decodePalette_entry_stop {s : State} {f : DirectFmt} {k : Nat} {e : Stop} (hc : s.pic.hasClut = true)
    (hf : entryFmt s.pic.clutType = some f) (hk : k < s.pic.clutColors.toNat)
    (hok : ∀ j, j < k → ∃ c, clEntry f s (remap s.pic.clutType j) = .ok c)
    (he : clEntry f s (remap s.pic.clutType k) = .error e) : decodePalette s = .error e := by
  rw [decodePalette_entries hc hf,
    collect_first_stop (p := 0) hk (by simpa only [Nat.zero_add] using hok) (by simpa only [Nat.zero_add] using he)]
  rfl

/-- An indexed level stops where its palette does (R77, R137). -/
theorem execDecodeImage_palette_stop {s : State} {level : BitVec 8} {e : Stop} (hf : s.status.fault = false)
    (hl : level.toNat < s.pic.mipCount.toNat) (hi : isIndexed s.pic.imgFmt = true) (hp : decodePalette s = .error e) :
    execDecodeImage level s = stopWith s e :=
  execDecodeImage_error hf hl (decodeLevel_palette_stop (by simp [imagePalette, hi, hp]))

/-! ### The first unwritten byte of the pixels -/

/-- The pixel loop stops for the first pixel that stops (R74, R137). -/
theorem execDecodeImage_pixel_stop {s : State} {level : BitVec 8} {x : List Color × Bool} {k : Nat} {e : Stop}
    (hf : s.status.fault = false) (hl : level.toNat < s.pic.mipCount.toNat) (hp : imagePalette s = .ok x)
    (hk : k < s.pic.levelW level * s.pic.levelH level)
    (hok : ∀ i, i < k → ∃ c, pixelAt s (levelBase s.pic level) x.1 i = .ok c)
    (he : pixelAt s (levelBase s.pic level) x.1 k = .error e) : execDecodeImage level s = stopWith s e := by
  apply execDecodeImage_error hf hl
  rw [decodeLevel_pixels hp,
    collect_first_stop (p := 0) hk (by simpa only [Nat.zero_add] using hok) (by simpa only [Nat.zero_add] using he)]
  rfl

/-- A stop at an unwritten byte ends the command by name (U7). -/
@[simp] theorem stopWith_unwritten (s : State) (space : Space) (addr : Nat) :
    stopWith s (.unwritten space addr) = .fault (.unwrittenByte space addr) := rfl

section
variable {s : State} {base q : Nat} (hb : ∀ a, a < q → s.img.read (base + a) ≠ none)
include hb

/-- A pixel of a direct format before the one in which the first unwritten byte stands. -/
theorem directPixel_before_unwritten {f : DirectFmt} {i : Nat} (hi : i < q / f.bytes)
    (hin : base + f.bytes * (q / f.bytes + 1) ≤ s.pic.imageSize.toNat) : ∃ c, directPixel f s base i = .ok c := by
  have hend : f.bytes * i + f.bytes ≤ f.bytes * (q / f.bytes) := Nat.mul_le_mul_left f.bytes hi
  have hle : f.bytes * (q / f.bytes) ≤ q := Nat.mul_div_le q f.bytes
  rw [Nat.mul_succ] at hin
  refine memRead_map_ok (space := .img) (Nat.le_trans (by omega) hin) _ fun j hj => ?_
  rw [Nat.add_assoc]
  exact hb _ (by omega)

/-- An index byte before the first unwritten one. -/
theorem indexByte_before_unwritten {a : Nat} (ha : a < q) (hin : base + q < s.pic.imageSize.toNat) {α : Type}
    (g : List Byte → α) : ∃ c, (memRead s .img (base + a) 1).map g = .ok c := by
  refine memRead_map_ok (space := .img) (Nat.le_trans (by omega) hin) g fun j hj => ?_
  rw [Nat.add_assoc]
  exact hb _ (by omega)

variable (hn : s.img.read (base + q) = none)
include hn

/-- The pixel of a direct format in which the first unwritten byte stands. -/
theorem directPixel_at_unwritten {f : DirectFmt} (hin : base + f.bytes * (q / f.bytes + 1) ≤ s.pic.imageSize.toNat) :
    directPixel f s base (q / f.bytes) = .error (.unwritten .img (base + q)) := by
  have hbytes : 0 < f.bytes := by cases f <;> decide
  have hdiv := Nat.div_add_mod q f.bytes
  have hsplit : base + q = base + f.bytes * (q / f.bytes) + q % f.bytes := by omega
  rw [Nat.mul_succ, ← Nat.add_assoc] at hin
  rw [hsplit] at hn ⊢
  refine memRead_map_unwritten (space := .img) hin _ (Nat.mod_lt q hbytes) (fun j hj => ?_) hn
  rw [Nat.add_assoc]
  exact hb _ (by omega)

omit hb in
/-- The first unwritten byte as an index byte. -/
theorem indexByte_at_unwritten (hin : base + q < s.pic.imageSize.toNat) {α : Type} (g : List Byte → α) :
    (memRead s .img (base + q) 1).map g = .error (.unwritten .img (base + q)) :=
  memRead_map_unwritten (space := .img) hin g Nat.zero_lt_one nofun hn

variable {level : BitVec 8} (hf : s.status.fault = false) (hl : level.toNat < s.pic.mipCount.toNat)
  (hbase : levelBase s.pic level = base)
include hf hl hbase

/-- A level of a direct format stops at the pixel in which the first unwritten byte stands. -/
theorem execDecodeImage_direct_unwritten {f : DirectFmt} (hfmt : s.pic.imgFmt = Config.imgCode f.code)
    (hq : q < f.bytes * (s.pic.levelW level * s.pic.levelH level))
    (hin : base + f.bytes * (q / f.bytes + 1) ≤ s.pic.imageSize.toNat) :
    execDecodeImage level s = .fault (.unwrittenByte .img (base + q)) := by
  subst hbase
  obtain ⟨hindexed, _⟩ := direct_not_indexed hfmt
  have hpalette : imagePalette s = .ok ([], false) := by simp [imagePalette, hindexed]
  rw [← stopWith_unwritten s]
  refine execDecodeImage_pixel_stop (k := q / f.bytes) hf hl hpalette (Nat.div_lt_of_lt_mul hq) (fun i hi => ?_) ?_
  · rw [pixelAt_direct hfmt]
    exact directPixel_before_unwritten hb hi hin
  · rw [pixelAt_direct hfmt]
    exact directPixel_at_unwritten hb hn hin

variable {x : List Color × Bool} (hx : decodePalette s = .ok x) (hin : base + q < s.pic.imageSize.toNat)
include hx hin

/-- An IDTEX8 level stops at pixel `q`, whose byte is the first unwritten one. -/
theorem execDecodeImage_idtex8_unwritten (hfmt : s.pic.imgFmt = 5) (hq : q < s.pic.levelW level * s.pic.levelH level) :
    execDecodeImage level s = .fault (.unwrittenByte .img (base + q)) := by
  subst hbase
  have hpalette : imagePalette s = .ok x := by rw [imagePalette, hfmt]; exact hx
  rw [← stopWith_unwritten s]
  refine execDecodeImage_pixel_stop (k := q) hf hl hpalette hq (fun i hi => ?_) ?_
  · rw [pixelAt_idtex8 hfmt]
    exact indexByte_before_unwritten hb hi hin _
  · rw [pixelAt_idtex8 hfmt]
    exact indexByte_at_unwritten hn hin _

/-- An IDTEX4 level stops at pixel `2*q`, the first of the two whose byte is the first unwritten one. -/
theorem execDecodeImage_idtex4_unwritten (hfmt : s.pic.imgFmt = 4)
    (hq : q < (s.pic.levelW level * s.pic.levelH level + 1) / 2) :
    execDecodeImage level s = .fault (.unwrittenByte .img (base + q)) := by
  subst hbase
  have hpalette : imagePalette s = .ok x := by rw [imagePalette, hfmt]; exact hx
  have hbyte : 2 * q / 2 = q := by omega
  rw [← stopWith_unwritten s]
  refine execDecodeImage_pixel_stop (k := 2 * q) hf hl hpalette (by omega) (fun i hi => ?_) ?_
  · rw [pixelAt_idtex4 hfmt]
    exact indexByte_before_unwritten hb (by omega) hin _
  · rw [pixelAt_idtex4 hfmt, pxIdtex4, hbyte]
    exact indexByte_at_unwritten hn hin _

end

/-- Settles O16: written blobs leave only overruns; else the loop over the entries, or over the pixels, stops for the first
that holds an unwritten byte. -/
theorem unwrittenStops : Obligations.UnwrittenStops := by
  intro s hf
  refine ⟨fun himg hclut => ⟨execDecodeImage_written hf himg hclut, execGetClut_written hf hclut⟩, ?pixels, ?entries⟩
  case pixels =>
    intro level base q n hl hbase hb hn
    refine ⟨fun f => execDecodeImage_direct_unwritten hb hn hf hl hbase, ?_⟩
    rintro x hx (⟨hfmt, hq⟩ | ⟨hfmt, hq⟩) hin
    · exact execDecodeImage_idtex8_unwritten hb hn hf hl hbase hx hin hfmt hq
    · exact execDecodeImage_idtex4_unwritten hb hn hf hl hbase hx hin hfmt hq
  case entries =>
    intro f k c addr hclut hfmt hk hin hb hc hbk hn
    have hstop : decodePalette s = .error (.unwritten .clut (addr k + c)) := by
      refine decodePalette_entry_stop hclut (entryFmt_of_code hfmt) hk (fun j hj => ?_) ?_
      · rw [clEntry, Nat.mul_comm]
        exact memRead_map_ok (space := .clut) (hin j (Nat.le_of_lt hj)) _ fun b => hb j b hj
      · rw [clEntry, Nat.mul_comm]
        exact memRead_map_unwritten (space := .clut) (hin k (Nat.le_refl k)) _ hc hbk hn
    refine ⟨execGetClut_error hf hstop, fun level hl himg => ?_⟩
    have hindexed : isIndexed s.pic.imgFmt = true := by rcases himg with h | h <;> rw [h] <;> rfl
    exact execDecodeImage_palette_stop hf hl hindexed hstop

end Sys2Proof.Machine
end

section
/-! Data and the operations that read it: the channels of a datum (R56 to R58, R97), `MemRead` (R32), the pixel and entry
operations on their bytes and past the end of a blob (R33, R134), and that a command shuts the host out (R38, R39). -/

namespace Sys2Proof.Machine

/-! ### The channels of a datum (R56 to R58, R97) -/

/-- The value of an RGB16 datum is little-endian (R31, R58). -/
theorem rgb16Value_toNat (b0 b1 : Byte) : (rgb16Value [b0, b1]).toNat = b0.toNat + 256 * b1.toNat := by
  have hshift : b1.toNat <<< 8 % 2 ^ 16 = b1.toNat <<< 8 := by
    rw [Nat.shiftLeft_eq]
    omega
  have hvalue : (rgb16Value [b0, b1]).toNat = b0.toNat ||| b1.toNat <<< 8 := by
    simp only [rgb16Value, datumByte, List.getD_cons_zero, List.getD_cons_succ, BitVec.truncate_eq_setWidth,
      BitVec.toNat_or, BitVec.toNat_shiftLeft, BitVec.toNat_setWidth_of_le (by decide : 8 ≤ 16), hshift]
  rw [hvalue, Nat.or_comm, ← Nat.shiftLeft_add_eq_or_of_lt b0.isLt, Nat.shiftLeft_eq]
  omega

/-- The fields of a 16-bit value, by number (R58). -/
theorem rgb16Color_eq (v : BitVec 16) : rgb16Color v =
    { r := expand5 (BitVec.ofNat 5 v.toNat)
      g := expand5 (BitVec.ofNat 5 (v.toNat / 32))
      b := expand5 (BitVec.ofNat 5 (v.toNat / 1024))
      a := if v.toNat / 32768 = 1 then 255 else 0 } := by
  have htop : v.getLsbD 15 = true ↔ v.toNat / 32768 = 1 := by
    rw [← BitVec.testBit_toNat, Nat.testBit_eq_decide_div_mod_eq, decide_eq_true_eq]
    omega
  simp only [rgb16Color, htop, BitVec.extractLsb', Nat.shiftRight_eq_div_pow, Nat.reducePow, Nat.div_one]

/-- Settles O6: RGB32 and RGB24 copy their bytes, RGB16 is read from its value. -/
theorem directColorChannels : Obligations.DirectColorChannels := by
  intro b0 b1 b2 b3
  refine ⟨rfl, rfl, ?_⟩
  simp only [directColor, rgb16Color_eq, rgb16Value_toNat, and_self]

/-! ### `MemRead` (R32) -/

/-- Settles O11: the bytes before the first unwritten one are written, whatever they are. -/
theorem memReadCases : Obligations.MemReadCases := by
  intro s space addr n
  refine ⟨memRead_overrun, fun hin data => memRead_ok hin, fun hin data k hk hd => memRead_unwritten hin hk fun j hj => ?_⟩
  simp [hd j hj]

section
variable {α : Type} {s : State} {space : Space} {addr n : Nat} (g : List Byte → α)

/-- A datum inside the space, its bytes written (R32). -/
theorem memRead_map_holds {data : Nat → Byte} (hin : addr + n ≤ s.blobSize space) (hd : (s.blob space).holds addr n data) :
    (memRead s space addr n).map g = .ok (g ((List.range n).map data)) := by
  rw [memRead_ok hin hd]
  rfl

/-- One byte inside the space, written (R32). -/
theorem memRead_map_byte {b : Byte} (hin : addr + 1 ≤ s.blobSize space) (hb : (s.blob space).read addr = some b) :
    (memRead s space addr 1).map g = .ok (g [b]) :=
  memRead_map_holds g (data := fun _ => b) hin fun k hk => by rwa [Nat.lt_one_iff.mp hk]

/-- A datum passing the end of the space (R32, R134). -/
theorem memRead_map_overrun (h : s.blobSize space < addr + n) :
    (memRead s space addr n).map g = .error (.overrun space) := by
  rw [memRead_overrun h]
  rfl

end

/-! ### The pixel operations (R74, R90 to R95) -/

/-- The pixel operation of a direct format reads that format's pixel (R90, R91, R92). -/
theorem exec_pixelOp (f : DirectFmt) (s : State) :
    exec f.pixelOp s = pixelStep f.pixelOp.mnemonic false (fun base p _ => directPixel f s base p) s := by
  cases f <;> rfl

/-- The index of an IDTEX4 pixel as a number: the even pixel has the low nibble (R59, R95). -/
theorem nibbleIndex_eq (b : Byte) (p : Nat) : nibbleIndex b p = if p % 2 = 0 then b.toNat % 16 else b.toNat / 16 := by
  have hhigh : b.toNat / 16 % 16 = b.toNat / 16 := by omega
  simp [nibbleIndex, Nat.shiftRight_eq_div_pow, hhigh]

section
variable {name : String} {op : Nat → Nat → List Color → Except Stop Color} {s : State} {w h base p : Nat}
  {pal : List Color} (hw : s.work = some (.pixels w h base p pal)) (hp : p < w * h)
include hw hp

/-- A pixel operation that sets no flag changes `OUT` and its cursor only (R74). -/
theorem pixelStep_ok_unflagged {c : Color} (hc : op base p pal = .ok c) :
    pixelStep name false op s =
      .next { s with out := s.out.take p ++ [c], work := some (.pixels w h base (p + 1) pal) } := by
  rw [pixelStep_ok hw hp hc]
  simp [memWriteOut, flagUnknown]

/-- A pixel operation whose datum passes the end of `IMG` (R134, R138). -/
theorem pixelStep_overrun {addr n : Nat} {g : List Byte → Color}
    (hop : op base p pal = (memRead s .img addr n).map g) (hend : s.pic.imageSize.toNat < addr + n) :
    pixelStep name false op s = .next (faultEntry s .imgOverrun) :=
  pixelStep_error hw hp (hop.trans (memRead_map_overrun (space := .img) g hend))

/-- A direct pixel that passes the end of `IMG` (R33, R134). -/
theorem exec_pixelOp_overrun (f : DirectFmt) (hend : s.pic.imageSize.toNat < base + f.bytes * p + f.bytes) :
    exec f.pixelOp s = .next (faultEntry s .imgOverrun) :=
  (exec_pixelOp f s).trans (pixelStep_overrun hw hp rfl hend)

end

/-- Settles O38: the bytes read are those of the packed pixel. -/
theorem pxDirectOnPixel : Obligations.PxDirectOnPixel := by
  intro s f w h base p pal data hw hp hin hd
  rw [exec_pixelOp]
  exact pixelStep_ok_unflagged hw hp (memRead_map_holds (space := .img) (directColor f) hin hd)

/-- Settles O39: the index is the byte, or the nibble of it that the pixel's parity names. -/
theorem pxIndexedOnPixel : Obligations.PxIndexedOnPixel := by
  intro s w h base p pal b hw hp
  have hlookup : ∀ i, (pal[i]?).getD ⟨0, 0, 0, 0⟩ = paletteLookup pal i := fun i => List.getD_eq_getElem?_getD.symm
  refine ⟨fun hin hb => ?idtex8, fun hin hb => ?idtex4⟩
  case idtex8 =>
    rw [hlookup]
    exact pixelStep_ok_unflagged hw hp (memRead_map_byte (space := .img) _ hin hb)
  case idtex4 =>
    rw [hlookup, ← nibbleIndex_eq]
    exact pixelStep_ok_unflagged hw hp (memRead_map_byte (space := .img) _ hin hb)

/-! ### The entry operations (R112, R115 to R117) -/

/-- The entry operation of an entry format reads that format's raw entry (R115, R116, R117). -/
theorem exec_entryOp (f : DirectFmt) (s : State) :
    exec f.entryOp s = entryStep f.entryOp.mnemonic (clEntry f s) s := by
  cases f <;> rfl

/-- An entry operation on the raw entry in hand. -/
theorem entryStep_ok {name : String} {op : Nat → Except Stop Color} {s : State} {goal : Goal} {k j : Nat}
    {pal : List Color} {c : Color} (hw : s.work = some (.palEntry goal k j pal)) (hc : op j = .ok c) :
    entryStep name op s = .next { s with work := some (.palIndex goal (k + 1) (pal ++ [c])) } := by
  simp [entryStep, hw, hc]

/-- An entry operation that stops. -/
theorem entryStep_error {name : String} {op : Nat → Except Stop Color} {s : State} {goal : Goal} {k j : Nat}
    {pal : List Color} {e : Stop} (hw : s.work = some (.palEntry goal k j pal)) (he : op j = .error e) :
    entryStep name op s = stopWith s e := by
  simp [entryStep, hw, he]

/-- A raw entry that passes the end of `CLUT` (R33, R134). -/
theorem exec_entryOp_overrun {s : State} {goal : Goal} {k j : Nat} {pal : List Color} (f : DirectFmt)
    (hw : s.work = some (.palEntry goal k j pal)) (hend : s.pic.clutSize.toNat < f.bytes * j + f.bytes) :
    exec f.entryOp s = .next (faultEntry s .clutOverrun) := by
  rw [Nat.mul_comm] at hend
  rw [exec_entryOp]
  exact entryStep_error (op := clEntry f s) hw (memRead_map_overrun (space := .clut) (directColor f) hend)

/-- Settles O42: the bytes read are those of the packed entry. -/
theorem clOnEntry : Obligations.ClOnEntry := by
  intro s f goal k j pal data hw hin hd
  rw [Nat.mul_comm] at hin hd
  rw [exec_entryOp]
  exact entryStep_ok hw (memRead_map_holds (space := .clut) (directColor f) hin hd)

/-- Settles O43: three widths of direct data, and one byte at `P` or at `P / 2`. -/
theorem operationOverruns : Obligations.OperationOverruns := by
  intro s w h base p goal k j pal
  refine ⟨fun hw hp => ⟨?_, ?_, ?_, ?_, ?_⟩, fun hw => ⟨?_, ?_, ?_⟩⟩
  · exact exec_pixelOp_overrun hw hp .rgb32
  · exact exec_pixelOp_overrun hw hp .rgb24
  · exact exec_pixelOp_overrun hw hp .rgb16
  · exact pixelStep_overrun hw hp rfl
  · exact pixelStep_overrun hw hp rfl
  · exact exec_entryOp_overrun .rgb16 hw
  · exact exec_entryOp_overrun .rgb24 hw
  · exact exec_entryOp_overrun .rgb32 hw

/-! ### The host between commands (R39, R150) -/

/-- Settles O49: the reset input is served like any other access. -/
theorem stepServesHost : Obligations.StepServesHost := by
  intro s hw hc
  refine ⟨fun hh => step_wait (by simp [hh]) hw hc hh, fun e rest hh => ?_⟩
  by_cases he : e = .rst
  · subst he
    exact step_rst hh
  · exact step_serve (by simpa [hh] using he) hw hc hh

/-! ### The host shut out by a command (R38) -/

/-- What belongs to the host: its accesses, the word it read last, and the free values drawn for it (R28, log 5, log 6). -/
abbrev State.sameHost (s t : State) : Prop := t.host = s.host ∧ t.rdata = s.rdata ∧ t.draws = s.draws

/-- No operation touches what is the host's: `RESET` keeps it (log 14), the others change no input at all (R2). -/
theorem exec_sameHost {i : Instr} {s t : State} (h : exec i s = .next t) : s.sameHost t := by
  by_cases hi : i = .reset
  · subst hi
    cases h
    exact ⟨rfl, rfl, rfl⟩
  · obtain ⟨⟨_, _, _, hhost⟩, _⟩ := exec_sameInputs hi h
    exact hhost

/-- Nor does the end of the palette (R77, R110). -/
theorem paletteReady_sameHost {s t : State} {pal : List Color} {goal : Goal} (h : paletteReady s pal goal = .next t) :
    s.sameHost t := by
  cases goal with
  | clut | image => cases h; exact ⟨rfl, rfl, rfl⟩

/-- A step inside a command is a selected operation, or the command's own control (R41). -/
theorem step_running_sameHost {s t : State} {w : Work} (hr : s.noReset) (hw : s.work = some w) (ht : step s = .next t) :
    s.sameHost t := by
  cases w with
  | enterLevel level =>
    cases (step_enterLevel hr hw).symm.trans ht
    exact ⟨rfl, rfl, rfl⟩
  | palSelect goal =>
    cases hc : s.pic.hasClut with
    | false => exact exec_sameHost ((step_palSelect_noClut hr hw hc).symm.trans ht)
    | true =>
      cases hf : entryFmt s.pic.clutType with
      | none => exact exec_sameHost ((step_palSelect_unknown hr hw hc hf).symm.trans ht)
      | some f =>
        cases (step_palSelect_entries hr hw hc hf).symm.trans ht
        exact ⟨rfl, rfl, rfl⟩
  | palIndex goal k pal =>
    by_cases hk : k < s.pic.clutColors.toNat
    · exact exec_sameHost ((step_palIndex hr hw hk).symm.trans ht)
    · cases (step_palIndex_done hr hw hk).symm.trans ht
      exact ⟨rfl, rfl, rfl⟩
  | palEntry goal k j pal => exact exec_sameHost ((step_palEntry hr hw).symm.trans ht)
  | ready goal pal => exact paletteReady_sameHost ((step_ready hr hw).symm.trans ht)
  | pixels w h base p pal =>
    by_cases hp : p < w * h
    · exact exec_sameHost ((step_pixels hr hw hp).symm.trans ht)
    · cases (step_pixels_done hr hw hp).symm.trans ht
      exact ⟨rfl, rfl, rfl⟩

/-! ### Commands whole in one step (R38) -/

/-- A command asked for between commands leaves no cursor (R25), and another operation has no next state there. -/
theorem exec_work_none {i : Instr} {s t : State} (hw : s.work = none) (h : exec i s = .next t) : t.work = none := by
  by_cases hg : i.group = .cmd
  · rcases group_cmd_cases hg with ⟨level, rfl⟩ | rfl | rfl | ⟨op, rfl⟩
    · obtain ⟨_, rfl⟩ | ⟨_, _, rfl⟩ | ⟨_, _, ⟨_, _, _, rfl⟩ | ⟨_, _, rfl⟩⟩ := execDecodeImage_next h
      · exact hw
      · rfl
      · rfl
      · rfl
    · obtain ⟨_, rfl⟩ | ⟨_, ⟨_, _, _, rfl⟩ | ⟨_, _, rfl⟩⟩ := execGetClut_next h
      · exact hw
      · rfl
      · rfl
    · cases h
      rfl
    · obtain ⟨_, rfl⟩ | ⟨_, rfl⟩ := execIllegal_next (op := op) h
      · exact hw
      · rfl
  · cases (operationsNeedCommand s i hw hg).symm.trans h

@[simp] theorem writeReg_work (s : State) (v : Word) (r : Register) : (writeReg s v r).work = s.work := by
  cases r <;> rfl

@[simp] theorem answer_work (s : State) (o : Option Word) : (answer s o).work = s.work := by
  cases o <;> rfl

@[simp] theorem withBlob_work (s : State) (space : Space) (m : Memory) : (s.withBlob space m).work = s.work := by
  cases space <;> rfl

/-- A host access begins no command by itself: a write to `CMD` leaves it pending (R20). -/
theorem serve_work_none {s t : State} {e : HostEvent} (hw : s.work = none) (h : serve s e = .next t) : t.work = none := by
  cases e with
  | write offset v =>
    cases h
    exact (writeReg_work s v _).trans hw
  | read offset =>
    cases h
    exact hw
  | writeBlob space addr b =>
    obtain ⟨_, rfl⟩ := serveWriteBlob_next h
    exact (withBlob_work s space _).trans hw
  | readBlob space addr =>
    obtain ⟨_, _, rfl⟩ := serveReadBlob_next h
    exact hw
  | readOut index =>
    cases h
    exact (answer_work s _).trans hw
  | rst =>
    cases h
    rfl

/-- A step from between commands ends between commands: the pending command is run whole, or an access served (R38, R39). -/
theorem step_idle_work {s t : State} (hw : s.work = none) (ht : step s = .next t) : t.work = none := by
  by_cases hr : s.noReset
  · cases hc : s.cmd with
    | some w => exact exec_work_none (s := { s with cmd := none }) hw ((step_command hr hw hc).symm.trans ht)
    | none =>
      cases hh : s.host with
      | nil =>
        cases (step_wait hr hw hc hh).symm.trans ht
        exact hw
      | cons e rest => exact serve_work_none (s := { s with host := rest }) hw ((step_serve hr hw hc hh).symm.trans ht)
  · obtain ⟨rest, hh⟩ : ∃ rest, s.host = .rst :: rest := List.head?_eq_some_iff.mp (Decidable.not_not.mp hr)
    cases (step_rst hh).symm.trans ht
    rfl

/-- Settles O51: a running command goes on, else the pending one is run. -/
theorem commandsAtomic : Obligations.CommandsAtomic := by
  refine fun s t ht => ⟨fun hr hbusy => ?_, fun hw => step_idle_work hw ht⟩
  cases hw : s.work with
  | some w => exact step_running_sameHost hr hw ht
  | none =>
    obtain ⟨w, hc⟩ := Option.ne_none_iff_exists'.mp (hbusy.resolve_right (absurd hw))
    exact exec_sameHost (s := { s with cmd := none }) ((step_command hr hw hc).symm.trans ht)

end Sys2Proof.Machine
end

section
/-! Selector words (R50 to R54): a word decodes by its fields alone, an encoded operation decodes to itself, and the operation
decoded is the one of the first row of the opcode table that the word matches. -/

namespace Sys2Proof.Machine

/-! ### The fields of a selector word (R50, R53) -/

/-- `CMD.OP` as a number (R50). -/
theorem cmdOp_toNat (w : Word) : (cmdOp w).toNat = w.toNat % 256 := by simp [cmdOp]

/-- The opcode of a word that holds nothing else (R50). -/
@[simp] theorem cmdOp_zeroExtend (op : BitVec 8) : cmdOp (op.zeroExtend 32) = op := extractLsb'_zeroExtend_byte op

/-- The word of a level above an opcode, as a number (R50). -/
theorem toNat_level_append_op (level op : BitVec 8) :
    ((level ++ op).zeroExtend 32 : Word).toNat = level.toNat * 256 + op.toNat :=
  (BitVec.toNat_setWidth_of_le (by decide)).trans (toNat_append_eq_add level op)

/-- Bits 7:0 of a level above an opcode (R50). -/
@[simp] theorem cmdOp_level_append_op (level op : BitVec 8) : cmdOp ((level ++ op).zeroExtend 32) = op := by
  apply BitVec.eq_of_toNat_eq
  have := op.isLt
  rw [cmdOp_toNat, toNat_level_append_op]
  omega

/-- Bits 15:8 of a level above an opcode (R50, R55). -/
@[simp] theorem cmdLevel_level_append_op (level op : BitVec 8) : cmdLevel ((level ++ op).zeroExtend 32) = level := by
  apply BitVec.eq_of_toNat_eq
  have := level.isLt
  have := op.isLt
  rw [cmdLevel, toNat_extractLsb'_word, toNat_level_append_op]
  omega

/-- `PIC.CLUT_TYPE.CSM` as a number (R14, R53). -/
theorem clutCsm_toNat (b : Byte) : (clutCsm b).toNat = b.toNat / 128 := by
  have := b.isLt
  rw [clutCsm, BitVec.extractLsb'_toNat, Nat.shiftRight_eq_div_pow]
  omega

/-- `PIC.CLUT_TYPE.COMPOUND` as a number (R14, R53). -/
theorem clutCompound_toNat (b : Byte) : (clutCompound b).toNat = b.toNat / 64 % 2 := by
  rw [clutCompound, BitVec.extractLsb'_toNat, Nat.shiftRight_eq_div_pow]

/-- CSM1 with the compound flag set is the value 01 of bits 7:6 (R53, R113). -/
theorem isCompound_iff (b : Byte) : isCompound (clutCsm b) (clutCompound b) = true ↔ b.toNat / 64 = 1 := by
  have hcsm : (Config.csm1Value).toNat = 0 := rfl
  have hset : (Config.compoundSet).toNat = 1 := rfl
  have := b.isLt
  simp only [isCompound, Bool.and_eq_true, beq_iff_eq, ← BitVec.toNat_inj, clutCsm_toNat, clutCompound_toNat, hcsm, hset]
  omega

section
variable (csm compound : BitVec 1) (fmt : BitVec 6)

/-- The CLUT-type byte as a number (R53). -/
theorem clutTypeByte_toNat :
    (clutTypeByte csm compound fmt).toNat = 128 * csm.toNat + 64 * compound.toNat + fmt.toNat := by
  simp only [clutTypeByte, toNat_append_eq_add]
  omega

@[simp] theorem clutCsm_clutTypeByte : clutCsm (clutTypeByte csm compound fmt) = csm := by
  apply BitVec.eq_of_toNat_eq
  have := compound.isLt
  have := fmt.isLt
  rw [clutCsm_toNat, clutTypeByte_toNat]
  omega

@[simp] theorem clutCompound_clutTypeByte : clutCompound (clutTypeByte csm compound fmt) = compound := by
  apply BitVec.eq_of_toNat_eq
  have := compound.isLt
  have := fmt.isLt
  rw [clutCompound_toNat, clutTypeByte_toNat]
  omega

@[simp] theorem clutFmt_clutTypeByte : clutFmt (clutTypeByte csm compound fmt) = fmt := by
  apply BitVec.eq_of_toNat_eq
  have := fmt.isLt
  rw [clutFmt_toNat, clutTypeByte_toNat]
  omega

end

/-! ### Each decoder, value by value (R51 to R53) -/

section
variable {w : Word}

/-- The opcodes of R51 as numbers. -/
theorem isOpcode_eq_false_iff {op : BitVec 8} :
    isOpcode op = false ↔ op.toNat ≠ 0x01 ∧ op.toNat ≠ 0x02 ∧ op.toNat ≠ 0x7F := by
  simp [isOpcode, Config.opDecodeImage, Config.opGetClut, Config.opReset, ← BitVec.toNat_inj, and_assoc]

/-- R51, R55. -/
theorem decodeCmd_decodeImage (h : cmdOp w = Config.opDecodeImage) : decodeCmd w = .decodeImage (cmdLevel w) := if_pos h

/-- R51. -/
theorem decodeCmd_getClut (h : cmdOp w = Config.opGetClut) : decodeCmd w = .getClut := by
  rw [decodeCmd, h]
  rfl

/-- R51. -/
theorem decodeCmd_reset (h : cmdOp w = Config.opReset) : decodeCmd w = .reset := by
  rw [decodeCmd, h]
  rfl

/-- Any other opcode (R61, R135). -/
theorem decodeCmd_illegal (h : isOpcode (cmdOp w) = false) : decodeCmd w = .illegal (cmdOp w) := by
  simp only [isOpcode, Bool.or_eq_false_iff, beq_eq_false_iff_ne] at h
  simp [decodeCmd, h]

end

/-- Any other image format byte (R52, R96). -/
theorem decodeImgFmt_unknown {b : Byte} (h : isImgCode b = false) : decodeImgFmt b = .pxUnknown b := by
  simp only [isImgCode, Bool.or_eq_false_iff, beq_eq_false_iff_ne] at h
  simp [decodeImgFmt, h]

/-- Any other palette format (R53, R118). -/
theorem decodeClutFmt_unknown {b : Byte} (h : isClutCode (clutFmt b) = false) :
    decodeClutFmt b = .clUnknown (clutCsm b) (clutCompound b) (clutFmt b) := by
  simp only [isClutCode, Bool.or_eq_false_iff, beq_eq_false_iff_ne] at h
  simp [decodeClutFmt, h]

/-- Bits 7:6 other than 01 (R53, R114). -/
theorem decodeClutIdx_linear {b : Byte} (h : isCompound (clutCsm b) (clutCompound b) = false) :
    decodeClutIdx b = .idxLinear (clutCsm b) (clutCompound b) (clutFmt b) := by simp [decodeClutIdx, h]

/-! ### Decoding what was encoded -/

/-- Settles O2: a row without operands has one word, and the other rows have their operands in fields of their own, which the
decoder takes out again; a fallback row holds no named value. -/
theorem decodeEncode : Obligations.DecodeEncode := by
  intro i hi
  cases i with
  | decodeImage level =>
    exact (decodeCmd_decodeImage (cmdOp_level_append_op level _)).trans (by rw [cmdLevel_level_append_op])
  | illegal op =>
    have hop : isOpcode op = false := by simpa [Instr.wellFormed] using hi
    simp only [decodeWord, Instr.group, encode]
    rw [decodeCmd_illegal (by rwa [cmdOp_zeroExtend]), cmdOp_zeroExtend]
  | pxUnknown fmt =>
    have hfmt : isImgCode fmt = false := by simpa [Instr.wellFormed] using hi
    simp only [decodeWord, Instr.group, encode, extractLsb'_zeroExtend_byte]
    exact decodeImgFmt_unknown hfmt
  | clUnknown csm compound fmt =>
    have hfmt : isClutCode fmt = false := by simpa [Instr.wellFormed] using hi
    simp only [decodeWord, Instr.group, encode, extractLsb'_zeroExtend_byte]
    simp [decodeClutFmt_unknown, hfmt]
  | idxLinear csm compound fmt =>
    have hidx : isCompound csm compound = false := by simpa [Instr.wellFormed] using hi
    simp only [decodeWord, Instr.group, encode, extractLsb'_zeroExtend_byte]
    simp [decodeClutIdx_linear, hidx]
  | getClut | reset | pxRgb16 | pxRgb24 | pxRgb32 | pxIdtex4 | pxIdtex8 | clRgb16 | clRgb24 | clRgb32 | clNone |
    idxCompound => rfl

/-! ### Rows of the opcode table (R54) -/

/-- The first element that passes, one element at a time. -/
theorem map_find?_cons {α β : Type} (f : α → β) (p : α → Bool) (a : α) (as : List α) :
    ((a :: as).find? p).map f = if p a = true then some (f a) else (as.find? p).map f := by
  cases h : p a <;> simp [h]

/-- Under a mask of the `n` bits from bit `a` a word is a value of those bits exactly when they hold that value. -/
theorem and_mask_eq_iff {a n : Nat} (h : a + n ≤ 32) {w : Word} {c : BitVec n} :
    w &&& ((BitVec.allOnes n).zeroExtend 32 <<< a) = c.zeroExtend 32 <<< a ↔ w.extractLsb' a n = c := by
  constructor
  · intro hw
    ext i hi
    have hbit := congrArg (BitVec.getLsbD · (a + i)) hw
    simpa [hi, show a + i < 32 by omega, show ¬ a + i < a by omega] using hbit
  · rintro rfl
    ext i hi
    by_cases ha : i < a
    · simp [ha]
    · simp [ha, hi, Nat.add_sub_of_le (Nat.not_lt.mp ha), Bool.and_comm]

/-- The same for the lowest `n` bits. -/
theorem and_lowMask_eq_iff {n : Nat} (h : n ≤ 32) {w : Word} {c : BitVec n} :
    w &&& (BitVec.allOnes n).zeroExtend 32 = c.zeroExtend 32 ↔ w.extractLsb' 0 n = c := by
  simpa only [BitVec.shiftLeft_zero] using and_mask_eq_iff (a := 0) (by omega)

/-- Bits 7:0 under the masks of the command and image format rows (R51, R52). -/
theorem lowByte_eq_iff {w : Word} {c : Byte} : w.extractLsb' 0 8 = c ↔ w &&& 0xFF = c.zeroExtend 32 :=
  (and_lowMask_eq_iff (n := 8) (by decide)).symm

/-- Bits 5:0 under the masks of the palette format rows (R53). -/
theorem clutFmt_lowByte_eq_iff {w : Word} {c : BitVec 6} :
    clutFmt (w.extractLsb' 0 8) = c ↔ w &&& 0x3F = c.zeroExtend 32 := by
  have hfmt : clutFmt (w.extractLsb' 0 8) = w.extractLsb' 0 6 := by simp [clutFmt]
  rw [hfmt]
  exact (and_lowMask_eq_iff (n := 6) (by decide)).symm

/-- Bits 7:6 under the mask of `IDX.COMPOUND` (R53). -/
theorem isCompound_lowByte_iff {w : Word} :
    isCompound (clutCsm (w.extractLsb' 0 8)) (clutCompound (w.extractLsb' 0 8)) = true ↔ w &&& 0xC0 = 0x40 := by
  have hmask : w &&& 0xC0 = 0x40 ↔ w.extractLsb' 6 2 = 1 := and_mask_eq_iff (a := 6) (n := 2) (c := 1) (by decide)
  have hone : (1 : BitVec 2).toNat = 1 := rfl
  rw [isCompound_iff, hmask, ← BitVec.toNat_inj, toNat_extractLsb'_word, toNat_extractLsb'_word, hone]
  omega

/-! ### The operation decoded is of the first matching row (R54) -/

/-- Each decoder answers within its group (R54). -/
theorem decodeWord_group (g : Group) (w : Word) : (decodeWord g w).group = g := by
  cases g <;>
    simp only [decodeWord, decodeCmd, decodeImgFmt, decodeClutFmt, decodeClutIdx, apply_ite Instr.group] <;>
    simp only [Instr.group, ite_self]

/-- A decoder comes to its fallback row only past every named value (R54, R61). -/
theorem decodeWord_wellFormed (g : Group) (w : Word) : (decodeWord g w).wellFormed = true := by
  cases g with
  | cmd =>
    simp only [decodeWord, decodeCmd]
    repeat' split
    all_goals simp [Instr.wellFormed, isOpcode, *]
  | imgFmt =>
    simp only [decodeWord, decodeImgFmt]
    repeat' split
    all_goals simp [Instr.wellFormed, isImgCode, *]
  | clutFmt =>
    simp only [decodeWord, decodeClutFmt]
    repeat' split
    all_goals simp [Instr.wellFormed, isClutCode, *]
  | clutIdx =>
    simp only [decodeWord, decodeClutIdx]
    repeat' split
    all_goals simp [Instr.wellFormed, *]

/-- With each condition of the decoder read as a mask and a pattern, the search through the rows and the decoder are one chain
of tests (R51 to R54). -/
theorem selectedRow_mnemonic (g : Group) (w : Word) :
    (selectedRow g w).map Row.mnemonic = some (decodeWord g w).mnemonic := by
  cases g <;>
    simp only [selectedRow, tableRows, map_find?_cons, beq_iff_eq, BitVec.ofNat_eq_ofNat, BitVec.and_zero, ↓reduceIte,
      decodeWord, decodeCmd, cmdOp, decodeImgFmt, decodeClutFmt, decodeClutIdx, apply_ite Instr.mnemonic, apply_ite some,
      lowByte_eq_iff, clutFmt_lowByte_eq_iff, isCompound_lowByte_iff] <;>
    rfl

/-- Settles O3. -/
theorem decodeFirstRow : Obligations.DecodeFirstRow :=
  fun g w => ⟨selectedRow_mnemonic g w, decodeWord_group g w, decodeWord_wellFormed g w⟩

/-! ### Words and bytes as numbers -/

/-- Settles O4: the low byte as a number is the opcode, and the next one the level. -/
theorem commandWordFields : Obligations.CommandWordFields := by
  intro w
  have hop {n : Nat} (h : w.toNat % 256 = n % 256) : cmdOp w = BitVec.ofNat 8 n :=
    BitVec.eq_of_toNat_eq (by rw [cmdOp_toNat, h, BitVec.toNat_ofNat])
  have hlevel : cmdLevel w = BitVec.ofNat 8 (w.toNat / 256) := extractLsb'_eq_ofNat rfl
  refine ⟨fun h => ?_, fun h => decodeCmd_getClut (hop h), fun h => decodeCmd_reset (hop h), fun h1 h2 h3 => ?_⟩
  · rw [decodeCmd_decodeImage (hop h), hlevel]
  · have hcode : isOpcode (cmdOp w) = false := by
      rw [isOpcode_eq_false_iff, cmdOp_toNat]
      exact ⟨h1, h2, h3⟩
    rw [decodeCmd_illegal hcode, hop rfl]

/-- Settles O9. -/
theorem remapSelection : Obligations.RemapSelection := by
  intro b k
  simp only [remap, isCompound_iff]
  exact ⟨fun h => if_pos h, fun h => if_neg h⟩

/-- Settles O1: fixed words, evaluated. -/
theorem decodeSelectedWords : Obligations.DecodeSelectedWords := by
  unfold Obligations.DecodeSelectedWords
  decide

end Sys2Proof.Machine
end

section
/-! `DECODE_IMAGE` (R70 to R76): the level's geometry, the empty result of an invalid level, the refusal while `FAULT` is 1
(R78), how the command can end, and the pixels of a valid level format by format. -/

namespace Sys2Proof.Machine

/-! ### Level geometry (R72, R81) -/

/-- The shift of R72 as a division. -/
theorem levelDim_eq_max_div (x : BitVec 16) (level : BitVec 8) :
    levelDim x level = max 1 (x.toNat / 2 ^ level.toNat) := by
  rw [levelDim, Nat.shiftRight_eq_div_pow]

/-- Settles O14: the bounds are those of each dimension. -/
theorem levelDimensions : Obligations.LevelDimensions := by
  intro p level
  have hw : p.levelW level ≤ 65535 := levelDim_le _ _
  have hh : p.levelH level ≤ 65535 := levelDim_le _ _
  exact ⟨levelDim_eq_max_div _ _, levelDim_eq_max_div _ _, levelDim_pos _ _, hw, levelDim_pos _ _, hh,
    Nat.mul_le_mul hw hh⟩

/-! ### Without a level to decode (R71, R78) -/

/-- Settles O17: the flags of the empty result, with no fault pending. -/
theorem invalidLevelEmpty : Obligations.InvalidLevelEmpty := by
  intro s level hf hl
  refine (execDecodeImage_invalid hf (decide_eq_true hl)).trans ?_
  simp [emptyResult, deliver, Status.started, Status.flagInvalidMip, Status.completed, hf]

/-- Settles O28. -/
theorem refusedWhileFaulted : Obligations.RefusedWhileFaulted := fun _ level hf =>
  ⟨exec_cmd_faulted (i := .decodeImage level) rfl nofun hf, exec_cmd_faulted (i := .getClut) rfl nofun hf, rfl⟩

/-! ### The three ends of an accepted command (R70, R71, R76, R138) -/

/-- Settles O37: a level delivered, an invalid level, or an overrun. -/
theorem decodeOutcomes : Obligations.DecodeOutcomes := by
  intro s t level hf ht
  obtain ⟨hs, _⟩ | ⟨_, _, rfl⟩ | ⟨_, _, ⟨cs, u, hd, rfl⟩ | ⟨space, _, rfl⟩⟩ := execDecodeImage_next ht
  · exact absurd hs (by simp [hf])
  · exact .inr (.inl ⟨rfl, hf, rfl, rfl, rfl, rfl⟩)
  · have hlen := decodeLevel_length hd
    have hw : s.pic.levelW level ≤ 65535 := levelDim_le _ _
    have hh : s.pic.levelH level ≤ 65535 := levelDim_le _ _
    have hpos : 0 < s.pic.levelW level * s.pic.levelH level := Nat.mul_pos (levelDim_pos _ _) (levelDim_pos _ _)
    obtain ⟨hout, hresW, hresH, hcount, _, hdone, hfault, hmip, _⟩ :=
      deliver_completed (u := u) (cs := cs) hf (Nat.lt_succ_of_le hw) (Nat.lt_succ_of_le hh)
        (hlen ▸ mul_lt_two_pow_32 hw hh)
    exact .inl ⟨hdone, hfault, hmip, by omega, by rw [hcount, hresW, hresH, hlen], by rw [hout, hcount]⟩
  · exact .inr (.inr ⟨rfl, rfl, rfl, rfl⟩)

/-! ### A valid level, format by format (R74, R75, R90 to R96) -/

/-- A level whose pixels all decode is delivered in order, and nothing but the result changes (R74, R76). -/
theorem execDecodeImage_pixels {s : State} {level : BitVec 8} {pal : List Color} {u unknown : Bool} {g : Nat → Color}
    (hf : s.status.fault = false) (hl : level.toNat < s.pic.mipCount.toNat) (hpal : imagePalette s = .ok (pal, u))
    (hunknown : (u || !isImgCode s.pic.imgFmt) = unknown)
    (hpx : ∀ p, p < s.pic.levelW level * s.pic.levelH level → pixelAt s (levelBase s.pic level) pal p = .ok (g p)) :
    ∃ t, exec (.decodeImage level) s = .next t ∧
      t.completedWith (s.pic.levelW level) (s.pic.levelH level)
        ((List.range (s.pic.levelW level * s.pic.levelH level)).map g) unknown ∧
      s.sameInputs t ∧ t.cmd = s.cmd ∧ t.status.faultCode = s.status.faultCode := by
  have hw : s.pic.levelW level ≤ 65535 := levelDim_le _ _
  have hh : s.pic.levelH level ≤ 65535 := levelDim_le _ _
  have hcolors := collect_ok (f := pixelAt s (levelBase s.pic level) pal) (g := g) (p := 0)
    (fun p hp => by simpa only [Nat.zero_add] using hpx p hp)
  simp only [Nat.zero_add] at hcolors
  have hexec := execDecodeImage_ok hf hl ((decodeLevel_pixels hpal).trans (by rw [hcolors, hunknown]; rfl))
  obtain ⟨hsame, hcmd⟩ := execDecodeImage_sameInputs hexec
  refine ⟨_, hexec, deliver_completed hf (Nat.lt_succ_of_le hw) (Nat.lt_succ_of_le hh) ?_, hsame, hcmd, rfl⟩
  simpa using mul_lt_two_pow_32 hw hh

/-- A format that is not indexed needs no palette (R77). -/
theorem imagePalette_not_indexed {s : State} (h : isIndexed s.pic.imgFmt = false) : imagePalette s = .ok ([], false) := by
  simp [imagePalette, h]

/-- An indexed format has the palette of `DecodePalette` (R77). -/
theorem imagePalette_indexed {s : State} (h : isIndexed s.pic.imgFmt = true) : imagePalette s = decodePalette s := by
  simp [imagePalette, h]

/-- Settles O18: pixel `P` is read from the bytes of the packed pixel. -/
theorem decodeDirectLevel : Obligations.DecodeDirectLevel := by
  rintro s level f _ data n hf hl hfmt rfl hin hd
  obtain ⟨hindexed, hcode⟩ := direct_not_indexed hfmt
  refine execDecodeImage_pixels hf hl (imagePalette_not_indexed hindexed) (by simp [hcode]) fun p hp => ?_
  have hend : f.bytes * p + f.bytes ≤ f.bytes * n := Nat.mul_le_mul_left f.bytes hp
  rw [pixelAt_direct hfmt]
  refine memRead_map_holds (space := .img) (directColor f) (Nat.le_trans (by omega) hin) fun k hk => ?_
  rw [Nat.add_assoc]
  exact hd _ (by omega)

/-- Settles O19: pixel `P` has byte `P` for its index. -/
theorem decodeIdtex8Level : Obligations.DecodeIdtex8Level := by
  rintro s level _ data pal unknown n hf hl hfmt hpal rfl hin hd
  have hindexed : isIndexed s.pic.imgFmt = true := by rw [hfmt]; rfl
  refine execDecodeImage_pixels hf hl ((imagePalette_indexed hindexed).trans hpal)
    (by simp [indexed_isImgCode hindexed]) fun p hp => ?_
  rw [pixelAt_idtex8 hfmt, ← List.getD_eq_getElem?_getD]
  exact memRead_map_byte (space := .img) _ (Nat.le_trans (by omega) hin) (hd p hp)

/-- Settles O20: pixel `P` has a nibble of byte `P / 2` for its index, and the last byte of an odd number of pixels is
used by one of them only. -/
theorem decodeIdtex4Level : Obligations.DecodeIdtex4Level := by
  rintro s level _ data pal unknown n hf hl hfmt hpal rfl hin hd
  have hindexed : isIndexed s.pic.imgFmt = true := by rw [hfmt]; rfl
  refine execDecodeImage_pixels hf hl ((imagePalette_indexed hindexed).trans hpal)
    (by simp [indexed_isImgCode hindexed]) fun p hp => ?_
  have hbyte : p / 2 < (n + 1) / 2 := by omega
  rw [pixelAt_idtex4 hfmt, ← nibbleIndex_eq, ← List.getD_eq_getElem?_getD]
  exact memRead_map_byte (space := .img) _ (Nat.le_trans (by omega) hin) (hd _ hbyte)

/-- The image format bytes without a decoder, as numbers (R3, R52). -/
theorem isImgCode_eq_false {b : Byte} (h : b = 0 ∨ 6 ≤ b.toNat) : isImgCode b = false := by
  rcases h with rfl | h
  · decide
  · have hne : ∀ c : Byte, c.toNat ≤ 5 → b ≠ c := fun c hc hb => by
      subst hb
      omega
    simp only [isImgCode, Bool.or_eq_false_iff, beq_eq_false_iff_ne]
    exact ⟨⟨⟨⟨hne _ (by decide), hne _ (by decide)⟩, hne _ (by decide)⟩, hne _ (by decide)⟩, hne _ (by decide)⟩

/-- Settles O21: such a byte is not indexed either, so that there is no palette to stop at. -/
theorem decodeUnknownFormat : Obligations.DecodeUnknownFormat := by
  intro s level hf hl hfmt
  have hcode := isImgCode_eq_false hfmt
  have hindexed : isIndexed s.pic.imgFmt = false :=
    eq_false_of_ne_true fun hi => by simp [indexed_isImgCode hi] at hcode
  have hdefault (n : Nat) : List.replicate n Config.defaultColor = (List.range n).map fun _ => Config.defaultColor := by
    rw [List.map_const', List.length_range]
  exact hdefault _ ▸ execDecodeImage_pixels hf hl (imagePalette_not_indexed hindexed) (by simp [hcode])
    fun p _ => pixelAt_unknown hcode _ _ p

/-- Settles O40: the default colour always decodes. -/
theorem pxUnknownOnPixel : Obligations.PxUnknownOnPixel := by
  intro s fmt w h base p pal hw hp
  refine (pixelStep_ok (name := "PX.UNKNOWN") (op := fun _ _ _ => pxUnknown) hw hp rfl).trans ?_
  simp [memWriteOut, flagUnknown, Status.flagUnknown, Config.defaultColor]

end Sys2Proof.Machine
end

section
/-! What `DECODE_IMAGE` does not read (R77), and that `FAULT` stays until reset (R78, R139). -/

namespace Sys2Proof.Machine

/-! ### A format that is not indexed makes no use of the CLUT (R77) -/

/-- The state with other CLUT registers and another CLUT blob. -/
def State.withOtherClut (s : State) (ct : Byte) (cc : BitVec 16) (cs : Word) (m : Memory) : State :=
  { s with pic := { s.pic with clutType := ct, clutColors := cc, clutSize := cs }, clut := m }

/-- `MemRead` of the image looks at the image blob and its size only (R32). -/
theorem memRead_img_congr {s t : State} (hsize : t.pic.imageSize = s.pic.imageSize) (himg : t.img = s.img) :
    memRead t .img = memRead s .img := by
  have hread (n : Nat) : ∀ a, readBytes t .img a n = readBytes s .img a n := by
    induction n with
    | zero => exact fun _ => rfl
    | succ n ih => simp [readBytes, State.blob, himg, ih]
  have hlen : t.blobSize .img = s.blobSize .img := congrArg BitVec.toNat hsize
  funext a n
  simp only [memRead, hlen, hread]

section
variable (s : State) (ct : Byte) (cc : BitVec 16) (cs : Word) (m : Memory)

/-- The base of a level is the sum of sizes that are not the CLUT's (R73). -/
theorem levelBase_withOtherClut (level : BitVec 8) :
    levelBase (s.withOtherClut ct cc cs m).pic level = levelBase s.pic level := by
  have hsum : sumMips (s.withOtherClut ct cc cs m).pic level.toNat = sumMips s.pic level.toNat := by
    rw [sumMips_eq, sumMips_eq]
    rfl
  rw [levelBase, hsum]
  rfl

/-- A pixel with its palette given is read from the image alone (R75). -/
theorem pixelAt_withOtherClut : pixelAt (s.withOtherClut ct cc cs m) = pixelAt s := by
  have hread : memRead (s.withOtherClut ct cc cs m) .img = memRead s .img := memRead_img_congr rfl rfl
  funext base pal p
  simp only [pixelAt, pxRgb32, pxRgb24, pxRgb16, pxIdtex8, pxIdtex4, directPixel, hread]
  rfl

/-- The level of a format that is not indexed (R77). -/
theorem decodeLevel_withOtherClut (hi : isIndexed s.pic.imgFmt = false) (level : BitVec 8) :
    decodeLevel (s.withOtherClut ct cc cs m) level = decodeLevel s level := by
  rw [decodeLevel_pixels (imagePalette_not_indexed hi),
    decodeLevel_pixels (s := s.withOtherClut ct cc cs m) (imagePalette_not_indexed hi),
    levelBase_withOtherClut, pixelAt_withOtherClut]
  rfl

end

/-- Settles O36: the same level check and the same level decoded; what is answered keeps the CLUT it finds. -/
theorem directIgnoresClut : Obligations.DirectIgnoresClut := by
  intro s t level ct cc cs m h4 h5 ht
  have hi : isIndexed s.pic.imgFmt = false := by
    simp only [isIndexed, Bool.or_eq_false_iff, beq_eq_false_iff_ne]
    exact ⟨h4, h5⟩
  have hlevel := decodeLevel_withOtherClut s ct cc cs m hi level
  change execDecodeImage level (s.withOtherClut ct cc cs m) = _
  obtain ⟨hf, rfl⟩ | ⟨hf, hl, rfl⟩ | ⟨hf, hl, ⟨colors, u, hd, rfl⟩ | ⟨space, hd, rfl⟩⟩ := execDecodeImage_next ht
  · exact exec_cmd_faulted (i := .decodeImage level) rfl nofun hf
  · exact execDecodeImage_invalid hf hl
  · exact execDecodeImage_ok (s := s.withOtherClut ct cc cs m) hf (invalidLevel_eq_false_iff.mp hl) (hlevel.trans hd)
  · exact execDecodeImage_error (s := s.withOtherClut ct cc cs m) hf (invalidLevel_eq_false_iff.mp hl) (hlevel.trans hd)

/-! ### What a step inside a command can do -/

/-- A selector byte selects no command (R54). -/
theorem decodeImgFmt_group (b : Byte) : (decodeImgFmt b).group = .imgFmt := by
  simpa only [decodeWord, extractLsb'_zeroExtend_byte] using decodeWord_group .imgFmt (b.zeroExtend 32)

theorem decodeClutFmt_group (b : Byte) : (decodeClutFmt b).group = .clutFmt := by
  simpa only [decodeWord, extractLsb'_zeroExtend_byte] using decodeWord_group .clutFmt (b.zeroExtend 32)

theorem decodeClutIdx_group (b : Byte) : (decodeClutIdx b).group = .clutIdx := by
  simpa only [decodeWord, extractLsb'_zeroExtend_byte] using decodeWord_group .clutIdx (b.zeroExtend 32)

/-- A step inside a command runs an operation that is no command, or is the command's own control, which changes `STATUS`
at most by completing (R41, R76). -/
theorem step_running_next {s t : State} {w : Work} (hr : s.noReset) (hw : s.work = some w) (ht : step s = .next t) :
    (∃ i : Instr, i.group ≠ .cmd ∧ exec i s = .next t) ∨ t.status = s.status ∨ t.status = s.status.completed := by
  cases w with
  | enterLevel level =>
    cases (step_enterLevel hr hw).symm.trans ht
    exact .inr (.inl rfl)
  | palSelect goal =>
    cases hc : s.pic.hasClut with
    | false => exact .inl ⟨_, by decide, (step_palSelect_noClut hr hw hc).symm.trans ht⟩
    | true =>
      cases hf : entryFmt s.pic.clutType with
      | none => exact .inl ⟨_, by simp [decodeClutFmt_group], (step_palSelect_unknown hr hw hc hf).symm.trans ht⟩
      | some f =>
        cases (step_palSelect_entries hr hw hc hf).symm.trans ht
        exact .inr (.inl rfl)
  | palIndex goal k pal =>
    by_cases hk : k < s.pic.clutColors.toNat
    · exact .inl ⟨_, by simp [decodeClutIdx_group], (step_palIndex hr hw hk).symm.trans ht⟩
    · cases (step_palIndex_done hr hw hk).symm.trans ht
      exact .inr (.inl rfl)
  | palEntry goal k j pal => exact .inl ⟨_, by simp [decodeClutFmt_group], (step_palEntry hr hw).symm.trans ht⟩
  | ready goal pal =>
    have ht := (step_ready hr hw).symm.trans ht
    cases goal with
    | clut => cases ht; exact .inr (.inr rfl)
    | image w h base => cases ht; exact .inr (.inl rfl)
  | pixels w h base p pal =>
    by_cases hp : p < w * h
    · exact .inl ⟨_, by simp [decodeImgFmt_group], (step_pixels hr hw hp).symm.trans ht⟩
    · cases (step_pixels_done hr hw hp).symm.trans ht
      exact .inr (.inr rfl)

/-! ### `FAULT` stays (R139) -/

section
variable {s t : State} (hf : s.status.fault = true)
include hf

/-- A pixel operation sets a flag, or enters a fault. -/
theorem pixelStep_fault {name : String} {u : Bool} {op : Nat → Nat → List Color → Except Stop Color}
    (h : pixelStep name u op s = .next t) : t.status.fault = true := by
  obtain ⟨_, _, _, _, _, _, _, ⟨_, _, rfl⟩ | ⟨_, _, rfl⟩⟩ := pixelStep_next h
  · exact hf
  · rfl

/-- An entry operation leaves `STATUS`, or enters a fault. -/
theorem entryStep_fault {name : String} {op : Nat → Except Stop Color} (h : entryStep name op s = .next t) :
    t.status.fault = true := by
  obtain ⟨_, _, _, _, _, ⟨_, _, rfl⟩ | ⟨_, _, rfl⟩⟩ := entryStep_next h
  · exact hf
  · rfl

/-- An index operation leaves `STATUS`. -/
theorem indexStep_fault {name : String} {f : Nat → Nat} (h : indexStep name f s = .next t) : t.status.fault = true := by
  obtain ⟨_, _, _, _, _, rfl⟩ := indexStep_next h
  exact hf

/-- A whole palette sets a flag. -/
theorem wholePalette_fault {name : String} {u : Bool} {pal : List Color} (h : wholePalette name u pal s = .next t) :
    t.status.fault = true := by
  obtain ⟨_, _, rfl⟩ := wholePalette_next h
  exact hf

/-- No operation but `RESET` clears `FAULT`: a command is refused (R78), and the others are one of the shapes above. -/
theorem exec_fault {i : Instr} (hi : i ≠ .reset) (h : exec i s = .next t) : t.status.fault = true := by
  have hrefused (hg : i.group = .cmd) : t.status.fault = true := by
    cases (exec_cmd_faulted hg hi hf).symm.trans h
    exact hf
  cases i with
  | decodeImage | getClut | reset | illegal => exact hrefused rfl
  | pxRgb16 | pxRgb24 | pxRgb32 | pxIdtex4 | pxIdtex8 => exact pixelStep_fault hf h
  | pxUnknown => exact pixelStep_fault (op := fun _ _ _ => pxUnknown) hf h
  | clRgb16 | clRgb24 | clRgb32 => exact entryStep_fault hf h
  | clNone | clUnknown => exact wholePalette_fault hf h
  | idxCompound | idxLinear => exact indexStep_fault hf h

/-- Nor does a step inside a command. -/
theorem step_running_fault {w : Work} (hr : s.noReset) (hw : s.work = some w) (ht : step s = .next t) :
    t.status.fault = true := by
  obtain ⟨i, hg, hexec⟩ | hstatus | hstatus := step_running_next hr hw ht
  · exact exec_fault hf (fun hi => hg (by rw [hi]; rfl)) hexec
  · rw [hstatus, hf]
  · rw [hstatus]
    exact hf

end

/-- A host access other than the reset input leaves `STATUS` and the result as they are (R28). -/
theorem serve_sameResult {s t : State} {e : HostEvent} (he : e ≠ .rst) (h : serve s e = .next t) : s.sameResult t := by
  cases e with
  | write offset v =>
    cases h
    cases registerAt offset <;> exact ⟨rfl, rfl, rfl, rfl, rfl⟩
  | read offset =>
    cases h
    exact ⟨rfl, rfl, rfl, rfl, rfl⟩
  | writeBlob space addr b =>
    obtain ⟨_, rfl⟩ := serveWriteBlob_next h
    cases space <;> exact ⟨rfl, rfl, rfl, rfl, rfl⟩
  | readBlob space addr =>
    obtain ⟨_, _, rfl⟩ := serveReadBlob_next h
    exact ⟨rfl, rfl, rfl, rfl, rfl⟩
  | readOut index =>
    cases h
    cases (s.out[index.toNat]?).map colorWord <;> exact ⟨rfl, rfl, rfl, rfl, rfl⟩
  | rst => exact absurd rfl he

/-- A command word decodes to `RESET` only by its opcode (R51). -/
theorem decodeCmd_ne_reset {w : Word} (h : w.toNat % 256 ≠ 0x7F) : decodeCmd w ≠ .reset := by
  have hop : cmdOp w ≠ Config.opReset := fun hop => h (by rw [← cmdOp_toNat, hop]; rfl)
  simp only [decodeCmd, if_neg hop]
  split
  · nofun
  · split
    · nofun
    · nofun

/-- Between commands a faulted engine refuses the pending command and serves the host, which leaves `STATUS` and the result
(R78, R139). -/
theorem step_idle_sameResult {s t : State} (hf : s.status.fault = true) (hr : s.noReset)
    (hcmd : ∀ w : Word, s.cmd = some w → w.toNat % 256 ≠ 0x7F) (hw : s.work = none) (ht : step s = .next t) :
    s.sameResult t := by
  cases hc : s.cmd with
  | some w =>
    have hrefused := exec_cmd_faulted (s := { s with cmd := none }) (decodeWord_group .cmd w)
      (decodeCmd_ne_reset (hcmd w hc)) hf
    cases ((step_command hr hw hc).trans hrefused).symm.trans ht
    exact ⟨rfl, rfl, rfl, rfl, rfl⟩
  | none =>
    cases hh : s.host with
    | nil =>
      cases (step_wait hr hw hc hh).symm.trans ht
      exact ⟨rfl, rfl, rfl, rfl, rfl⟩
    | cons e rest =>
      have he : e ≠ .rst := fun he => hr (by simp [hh, he])
      exact serve_sameResult (s := { s with host := rest }) he ((step_serve hr hw hc hh).symm.trans ht)

/-- Settles O31: inside a command `FAULT` is kept, and between commands all of `STATUS` and of the result. -/
theorem faultSticky : Obligations.FaultSticky := by
  refine ⟨fun i s t hi hf h => ⟨exec_fault hf hi h, fun hg => ?_⟩, fun s t hf hr hcmd ht => ?_⟩
  · cases (exec_cmd_faulted hg hi hf).symm.trans h
    rfl
  · cases hw : s.work with
    | some w => exact ⟨step_running_fault hf hr hw ht, nofun⟩
    | none =>
      have hsame := step_idle_sameResult hf hr hcmd hw ht
      have ⟨hstatus, _⟩ := hsame
      exact ⟨hstatus ▸ hf, fun _ => hsame⟩

end Sys2Proof.Machine
end

section
/-! `DECODE_IMAGE` followed operation by operation (R70, R74, R112, log 9): each loop, stepped through, ends as `collect` does,
and so the whole as the one step of the command. -/

namespace Sys2Proof.Machine

/-! ### What some number of steps comes to -/

/-- Some number of steps from `s` ends in `o`. -/
def Reaches (s : State) (o : Host.Outcome State Fault Refusal) : Prop := ∃ n, runSteps n s = o

theorem Reaches.refl (s : State) : Reaches s (.next s) := ⟨0, rfl⟩

/-- A single step. -/
theorem Reaches.of_step {s : State} {o : Host.Outcome State Fault Refusal} (h : step s = o) : Reaches s o := by
  refine ⟨1, ?_⟩
  rw [runSteps, h]
  cases o <;> rfl

/-- One step in front of a run. -/
theorem Reaches.head {s t : State} {o : Host.Outcome State Fault Refusal} (h : step s = .next t) (ht : Reaches t o) :
    Reaches s o := by
  obtain ⟨n, hn⟩ := ht
  refine ⟨n + 1, ?_⟩
  rw [runSteps, h]
  exact hn

/-- One run after another. -/
theorem Reaches.trans {s t : State} {o : Host.Outcome State Fault Refusal} (h : Reaches s (.next t)) (ht : Reaches t o) :
    Reaches s o := by
  obtain ⟨n, hn⟩ := h
  induction n generalizing s with
  | zero =>
    cases hn
    exact ht
  | succ n ih =>
    rw [runSteps] at hn
    cases hs : step s with
    | next s' => exact (ih (by rwa [hs] at hn)).head hs
    | fault r => simp [hs] at hn
    | refused r => simp [hs] at hn

/-- How a part of a command ends: a value goes on to a state, a stop ends the command. -/
def outcomeOf {α : Type} (s : State) (k : α → State) : Except Stop α → Host.Outcome State Fault Refusal
  | .error e => stopWith s e
  | .ok a => .next (k a)

@[simp] theorem outcomeOf_error {α : Type} (s : State) (k : α → State) (e : Stop) :
    outcomeOf s k (.error e) = stopWith s e := rfl

@[simp] theorem outcomeOf_ok {α : Type} (s : State) (k : α → State) (a : α) : outcomeOf s k (.ok a) = .next (k a) := rfl

@[simp] theorem outcomeOf_map {α β : Type} (s : State) (k : β → State) (g : α → β) (x : Except Stop α) :
    outcomeOf s k (x.map g) = outcomeOf s (fun a => k (g a)) x := by
  cases x <;> rfl

/-- A loop whose turns each append one Color ends as `collect` does (R74, R112). -/
theorem reaches_collect {s : State} {place : List Color → State} {f : Nat → Except Stop Color} {total : Nat}
    (hturn : ∀ done : List Color, done.length < total →
      Reaches (place done) (outcomeOf s (fun c => place (done ++ [c])) (f done.length))) :
    Reaches (place []) (outcomeOf s place (collect f 0 total)) := by
  suffices hrest : ∀ (n : Nat) (done : List Color), done.length + n = total →
      Reaches (place done) (outcomeOf s (fun cs => place (done ++ cs)) (collect f done.length n)) from
    hrest total [] (Nat.zero_add total)
  intro n
  induction n with
  | zero =>
    intro done _
    simpa using Reaches.refl (place done)
  | succ n ih =>
    intro done hdone
    have hfirst := hturn done (by omega)
    cases hc : f done.length with
    | error e => simpa [collect, hc] using hfirst
    | ok c =>
      have hnext : Reaches (place done) (.next (place (done ++ [c]))) := by simpa [hc] using hfirst
      have hothers := ih (done ++ [c]) (by simp; omega)
      simp only [List.length_append, List.length_singleton, List.append_assoc, List.singleton_append] at hothers
      simpa [collect, hc] using hnext.trans hothers

/-- Such a loop with the step that ends it. -/
theorem reaches_loop {s : State} {place : List Color → State} {k : List Color → State} {f : Nat → Except Stop Color}
    {total : Nat}
    (hturn : ∀ done : List Color, done.length < total →
      Reaches (place done) (outcomeOf s (fun c => place (done ++ [c])) (f done.length)))
    (hend : ∀ done : List Color, done.length = total → step (place done) = .next (k done)) :
    Reaches (place []) (outcomeOf s k (collect f 0 total)) := by
  have hloop := reaches_collect hturn
  cases hc : collect f 0 total with
  | error e => simpa [hc] using hloop
  | ok cs =>
    rw [hc] at hloop
    exact hloop.trans (.of_step (hend cs (collect_length hc)))

/-! ### The palette (R111, R112, R118) -/

/-- An index operation on the current palette index. -/
theorem indexStep_ok {name : String} {f : Nat → Nat} {s : State} {goal : Goal} {k : Nat} {pal : List Color}
    (hw : s.work = some (.palIndex goal k pal)) (hk : k < s.pic.clutColors.toNat) :
    indexStep name f s = .next { s with work := some (.palEntry goal k (f k) pal) } := by
  simp [indexStep, hw, hk]

/-- The state with a command at place `w`. -/
def State.atWork (s : State) (w : Work) : State := { s with work := some w }

/-- The command with its palette complete, and `UNKNOWN_FMT` flagged if the palette flags it. -/
def State.atReady (s : State) (goal : Goal) (x : List Color × Bool) : State :=
  (flagUnknown s x.2).atWork (.ready goal x.1)

/-- A palette that flags nothing. -/
@[simp] theorem atReady_unflagged (s : State) (goal : Goal) (pal : List Color) :
    s.atReady goal (pal, false) = s.atWork (.ready goal pal) := by
  simp [State.atReady, flagUnknown]

/-- A stop ends a command alike from all its places (R138). -/
theorem stopWith_atWork (s : State) (w : Work) (e : Stop) : stopWith (s.atWork w) e = stopWith s e :=
  stopWith_congr e rfl rfl rfl rfl rfl rfl rfl

section
variable {s : State} (hr : s.noReset)
include hr

/-- One turn of the entry loop: the index is remapped, then the raw entry is read (R112). -/
theorem reaches_entry {f : DirectFmt} (hf : entryFmt s.pic.clutType = some f) (goal : Goal) (pal : List Color)
    (hk : pal.length < s.pic.clutColors.toNat) :
    Reaches (s.atWork (.palIndex goal pal.length pal))
      (outcomeOf s (fun c => s.atWork (.palIndex goal (pal ++ [c]).length (pal ++ [c])))
        (clEntry f s (remap s.pic.clutType pal.length))) := by
  let j := remap s.pic.clutType pal.length
  let t := s.atWork (.palEntry goal pal.length j pal)
  obtain ⟨_, hidx⟩ := exec_decodeClutIdx (s := s.atWork (.palIndex goal pal.length pal))
  have hindex : step (s.atWork (.palIndex goal pal.length pal)) = .next t :=
    (step_palIndex (s := s.atWork _) hr rfl hk).trans (hidx.trans (indexStep_ok rfl hk))
  obtain ⟨name, hcl⟩ := exec_decodeClutFmt (s := t) hf
  have hentry : step t = entryStep name (clEntry f s) t :=
    (step_palEntry (s := t) hr rfl).trans (hcl.trans (by rw [clEntry_congr (s := s) (t := t) rfl rfl rfl]))
  refine .head hindex (.of_step (hentry.trans ?_))
  cases hc : clEntry f s j with
  | error e => exact (entryStep_error rfl hc).trans (stopWith_atWork s _ e)
  | ok c =>
    rw [entryStep_ok rfl hc, outcomeOf_ok, List.length_append]
    rfl

/-- The palette operations of a command, from the place where it classifies its palette, are `DecodePalette`. -/
theorem reaches_palette (goal : Goal) :
    Reaches (s.atWork (.palSelect goal)) (outcomeOf s (s.atReady goal) (decodePalette s)) := by
  let t := s.atWork (.palSelect goal)
  cases hc : s.pic.hasClut with
  | false =>
    rw [decodePalette_none hc]
    exact .of_step ((step_palSelect_noClut (s := t) hr rfl hc).trans rfl)
  | true =>
    cases hf : entryFmt s.pic.clutType with
    | none =>
      rw [decodePalette_unknown hc hf]
      exact .of_step ((step_palSelect_unknown (s := t) hr rfl hc hf).trans (exec_decodeClutFmt_unknown (s := t) hc hf))
    | some f =>
      rw [decodePalette_entries hc hf, outcomeOf_map]
      refine .head (step_palSelect_entries (s := t) hr rfl hc hf) ?_
      refine reaches_loop (place := fun pal => s.atWork (.palIndex goal pal.length pal)) (reaches_entry hr hf goal)
        fun pal hlen => ?_
      rw [step_palIndex_done (s := s.atWork _) hr rfl (Nat.not_lt.mpr (Nat.le_of_eq hlen.symm)), atReady_unflagged]
      rfl

/-- The palette an image format needs (R77), from the acceptance of the level on. -/
theorem reaches_imagePalette (level : BitVec 8) :
    Reaches (s.atWork (.enterLevel level))
      (outcomeOf s (s.atReady (.image (s.pic.levelW level) (s.pic.levelH level) (levelBase s.pic level)))
        (imagePalette s)) := by
  let goal := Goal.image (s.pic.levelW level) (s.pic.levelH level) (levelBase s.pic level)
  have henter : step (s.atWork (.enterLevel level)) =
      .next (s.atWork (if isIndexed s.pic.imgFmt then .palSelect goal else .ready goal [])) :=
    step_enterLevel (s := s.atWork _) hr rfl
  refine .head henter ?_
  cases hi : isIndexed s.pic.imgFmt with
  | true =>
    rw [imagePalette_indexed hi]
    exact reaches_palette hr goal
  | false =>
    rw [imagePalette_not_indexed hi, outcomeOf_ok, atReady_unflagged]
    exact Reaches.refl _

end

/-! ### The pixels (R74, R76) -/

/-- The pixel loop with the Colors `done` made so far: every pixel of an unknown format flags `UNKNOWN_FMT` (R96). -/
def State.atPixels (s : State) (w h base : Nat) (pal done : List Color) : State :=
  { flagUnknown s (!isImgCode s.pic.imgFmt && decide (0 < done.length)) with
    out := done
    work := some (.pixels w h base done.length pal) }

/-- No pixel has flagged anything yet. -/
theorem atPixels_nil (s : State) (w h base : Nat) (pal : List Color) :
    s.atPixels w h base pal [] = { s with out := [], work := some (.pixels w h base 0 pal) } := by
  simp [State.atPixels, flagUnknown]

/-- After a pixel its Color is in `OUT` and the flag has been raised if the format raises it (R74, R96). -/
theorem memWriteOut_atPixels (s : State) (w h base : Nat) (pal done : List Color) (c : Color) :
    { memWriteOut (flagUnknown (s.atPixels w h base pal done) (!isImgCode s.pic.imgFmt)) done.length c with
      work := some (.pixels w h base (done.length + 1) pal) } = s.atPixels w h base pal (done ++ [c]) := by
  cases hcode : isImgCode s.pic.imgFmt <;>
    simp [State.atPixels, memWriteOut, flagUnknown, Status.flagUnknown, hcode]

section
variable {s : State} (hr : s.noReset) (w h base : Nat) (pal : List Color)
include hr

/-- One turn of the pixel loop: the operation that the format selects (R74, R75). -/
theorem reaches_pixel (done : List Color) (hp : done.length < w * h) :
    Reaches (s.atPixels w h base pal done)
      (outcomeOf s (fun c => s.atPixels w h base pal (done ++ [c])) (pixelAt s base pal done.length)) := by
  let t := s.atPixels w h base pal done
  obtain ⟨name, hpx⟩ := exec_decodeImgFmt (s := t)
  have hread : pixelAt t = pixelAt s := pixelAt_congr rfl rfl rfl
  rw [hread] at hpx
  refine .of_step ((step_pixels (s := t) hr rfl hp).trans (hpx.trans ?_))
  cases hc : pixelAt s base pal done.length with
  | error e =>
    rw [pixelStep_error (op := fun base p pal => pixelAt s base pal p) rfl hp hc]
    exact stopWith_congr e rfl rfl rfl rfl rfl rfl rfl
  | ok c =>
    rw [pixelStep_ok (op := fun base p pal => pixelAt s base pal p) rfl hp hc]
    exact congrArg Host.Outcome.next (memWriteOut_atPixels s w h base pal done c)

/-- The pixel operations of a level with its palette, from the first pixel on, are `collect`, and the last is followed by the
delivery (R76). -/
theorem reaches_pixels (hpos : 0 < w * h) :
    Reaches (s.atWork (.ready (.image w h base) pal))
      (outcomeOf s (deliver (flagUnknown s (!isImgCode s.pic.imgFmt)) w h) (collect (pixelAt s base pal) 0 (w * h))) := by
  have hready : step (s.atWork (.ready (.image w h base) pal)) = .next (s.atPixels w h base pal []) :=
    (step_ready (s := s.atWork _) hr rfl).trans (by rw [atPixels_nil]; rfl)
  refine .head hready (reaches_loop (reaches_pixel hr w h base pal) fun done hlen => ?_)
  rw [step_pixels_done (s := s.atPixels w h base pal done) hr rfl (Nat.not_lt.mpr (Nat.le_of_eq hlen.symm))]
  simp [State.atPixels, deliver, flagUnknown, hlen, hpos]

end

/-! ### The whole command -/

/-- The flags of the palette and of the pixels are one flag (R96, R118). -/
@[simp] theorem flagUnknown_flagUnknown (s : State) (u v : Bool) :
    flagUnknown (flagUnknown s u) v = flagUnknown s (u || v) := by
  simp [flagUnknown, Status.flagUnknown, Bool.or_assoc]

/-- What a stop or a state ends in does not depend on the flags at acceptance (R138). -/
theorem outcomeOf_startCommand {α : Type} (s : State) (u : Bool) (k : α → State) (x : Except Stop α) :
    outcomeOf (flagUnknown (startCommand s) u) k x = outcomeOf s k x := by
  cases x with
  | error e => exact stopWith_congr e rfl rfl rfl rfl rfl rfl rfl
  | ok a => rfl

/-- The one step of the command, its palette known, by its pixel loop (R74, R76). -/
theorem execDecodeImage_eq_outcomeOf {s : State} {level : BitVec 8} {pal : List Color} {u : Bool}
    (hf : s.status.fault = false) (hl : level.toNat < s.pic.mipCount.toNat) (hpal : imagePalette s = .ok (pal, u)) :
    execDecodeImage level s =
      outcomeOf s
        (deliver (flagUnknown (startCommand s) (u || !isImgCode s.pic.imgFmt)) (s.pic.levelW level) (s.pic.levelH level))
        (collect (pixelAt s (levelBase s.pic level) pal) 0 (s.pic.levelW level * s.pic.levelH level)) := by
  have hlevel := decodeLevel_pixels (level := level) hpal
  cases hc : collect (pixelAt s (levelBase s.pic level) pal) 0 (s.pic.levelW level * s.pic.levelH level) with
  | error e => exact execDecodeImage_error hf hl (hlevel.trans (by rw [hc]; rfl))
  | ok cs => exact execDecodeImage_ok hf hl (hlevel.trans (by rw [hc]; rfl))

/-- Settles O52: the palette, then the pixels, as `decodeLevel` has them. -/
theorem decodeByOperations : Obligations.DecodeByOperations := by
  intro s level hr hf hl
  have hpalette : imagePalette (startCommand s) = imagePalette s := by
    simp only [imagePalette, startCommand_pic, decodePalette_congr (s := s) (t := startCommand s) rfl rfl rfl]
  have hfirst := reaches_imagePalette (s := startCommand s) hr level
  rw [hpalette] at hfirst
  change Reaches ((startCommand s).atWork (.enterLevel level)) (execDecodeImage level s)
  cases hpal : imagePalette s with
  | error e =>
    rw [hpal] at hfirst
    rw [execDecodeImage_error hf hl (decodeLevel_palette_stop hpal)]
    exact hfirst
  | ok x =>
    obtain ⟨pal, u⟩ := x
    rw [hpal] at hfirst
    have hpixels := reaches_pixels (s := flagUnknown (startCommand s) u) hr (s.pic.levelW level) (s.pic.levelH level)
      (levelBase s.pic level) pal (Nat.mul_pos (levelDim_pos _ _) (levelDim_pos _ _))
    have hread : pixelAt (flagUnknown (startCommand s) u) = pixelAt s := pixelAt_congr rfl rfl rfl
    rw [outcomeOf_startCommand, flagUnknown_flagUnknown, hread] at hpixels
    rw [execDecodeImage_eq_outcomeOf hf hl hpal]
    exact hfirst.trans hpixels

end Sys2Proof.Machine
end

section
/-! Pixel formats (41_pixel_formats.md): `Expand5` (R93), and a level that runs past the end of a written `IMG` (R94, R95,
R134, R137): its last pixel overruns, and no other stop can come before that. -/

namespace Sys2Proof.Machine

/-! ### `Expand5` (R93) -/

/-- `Expand5` by its formula: the shift to the left loses no bit of the 8. -/
theorem expand5_toNat_or (c : BitVec 5) : (expand5 c).toNat = c.toNat * 8 ||| c.toNat / 4 := by
  have hshift : c.toNat <<< 3 % 256 = c.toNat * 8 := by
    rw [Nat.shiftLeft_eq]
    omega
  simp only [expand5, BitVec.truncate_eq_setWidth, BitVec.toNat_or, BitVec.toNat_shiftLeft, BitVec.toNat_ushiftRight,
    BitVec.toNat_setWidth_of_le (by decide : 5 ≤ 8), hshift, Nat.shiftRight_eq_div_pow, Nat.reducePow]

/-- The two parts of `Expand5` share no bit, so that it is their sum. -/
theorem expand5_toNat_add (c : BitVec 5) : (expand5 c).toNat = c.toNat * 8 + c.toNat / 4 := by
  have hlow : c.toNat / 4 < 2 ^ 3 := by omega
  rw [expand5_toNat_or]
  exact (Nat.shiftLeft_eq c.toNat 3 ▸ Nat.shiftLeft_add_eq_or_of_lt hlow c.toNat).symm

/-- Settles O5: the table is evaluated, and the sum increases with `c`. -/
theorem expand5Table : Obligations.Expand5Table := by
  refine ⟨expand5_toNat_or, by decide, fun c d hcd => ?_⟩
  rw [BitVec.lt_def] at hcd ⊢
  rw [expand5_toNat_add, expand5_toNat_add]
  omega

/-! ### A level that does not fit (R94, R95, R134, R137) -/

/-- A datum of a space whose bytes are all written decodes or overruns (R32). -/
theorem memRead_map_written {α : Type} {s : State} {space : Space} (hw : (s.blob space).written (s.blobSize space))
    (addr n : Nat) (g : List Byte → α) :
    (∃ c, (memRead s space addr n).map g = .ok c) ∨ (memRead s space addr n).map g = .error (.overrun space) := by
  rcases memRead_written (addr := addr) (n := n) hw with ⟨_, bs, hok, _⟩ | ⟨_, hover⟩
  · exact .inl ⟨g bs, by rw [hok]; rfl⟩
  · exact .inr (by rw [hover]; rfl)

section
variable {s : State} {level : BitVec 8} (hf : s.status.fault = false) (hl : level.toNat < s.pic.mipCount.toNat)
  (hw : s.img.written s.pic.imageSize.toNat)
include hf hl hw

/-- A level each pixel of which is one datum of `IMG`, one of them past the end of the blob (R134, R138): the loop may have
stopped before that pixel, but only at an overrun too. -/
theorem execDecodeImage_pixel_overrun {x : List Color × Bool} {addr : Nat → Nat} {bytes p : Nat}
    {g : Nat → List Byte → Color} (hpal : imagePalette s = .ok x)
    (hpx : ∀ i, pixelAt s (levelBase s.pic level) x.1 i = (memRead s .img (addr i) bytes).map (g i))
    (hp : p < s.pic.levelW level * s.pic.levelH level) (hend : s.pic.imageSize.toNat < addr p + bytes) :
    execDecodeImage level s = .next (faultEntry s .imgOverrun) := by
  have hloop : collect (pixelAt s (levelBase s.pic level) x.1) 0 (s.pic.levelW level * s.pic.levelH level) =
      .error (.overrun .img) :=
    collect_error (fun i _ => hpx (0 + i) ▸ memRead_map_written (space := .img) hw _ _ _)
      ⟨p, hp, by rw [Nat.zero_add, hpx]; exact memRead_map_overrun (space := .img) _ hend⟩
  exact execDecodeImage_error hf hl (by rw [decodeLevel_pixels hpal, hloop]; rfl)

variable {last : Nat} (hlast : s.pic.levelW level * s.pic.levelH level = last + 1)
include hlast

/-- A level of a direct format one or more bytes too long (R90 to R92). -/
theorem execDecodeImage_direct_overrun {f : DirectFmt} (hfmt : s.pic.imgFmt = Config.imgCode f.code)
    (hend : s.pic.imageSize.toNat < levelBase s.pic level + f.bytes * (last + 1)) :
    execDecodeImage level s = .next (faultEntry s .imgOverrun) :=
  execDecodeImage_pixel_overrun hf hl hw (imagePalette_not_indexed (direct_not_indexed hfmt).1)
    (pixelAt_direct hfmt _ _) (Nat.le_of_eq hlast.symm) (by rwa [Nat.mul_succ, ← Nat.add_assoc] at hend)

variable {x : List Color × Bool} (hx : decodePalette s = .ok x)
include hx

/-- An IDTEX8 level one or more bytes too long (R94). -/
theorem execDecodeImage_idtex8_overrun (hfmt : s.pic.imgFmt = 5)
    (hend : s.pic.imageSize.toNat < levelBase s.pic level + (last + 1)) :
    execDecodeImage level s = .next (faultEntry s .imgOverrun) :=
  execDecodeImage_pixel_overrun hf hl hw ((imagePalette_indexed (by rw [hfmt]; rfl)).trans hx)
    (pixelAt_idtex8 hfmt _ _) (Nat.le_of_eq hlast.symm) hend

/-- An IDTEX4 level one or more bytes too long (R95): its last byte is that of its last pixel. -/
theorem execDecodeImage_idtex4_overrun (hfmt : s.pic.imgFmt = 4)
    (hend : s.pic.imageSize.toNat < levelBase s.pic level + (last + 1 + 1) / 2) :
    execDecodeImage level s = .next (faultEntry s .imgOverrun) :=
  execDecodeImage_pixel_overrun hf hl hw ((imagePalette_indexed (by rw [hfmt]; rfl)).trans hx)
    (pixelAt_idtex4 hfmt _ _) (Nat.le_of_eq hlast.symm) (by omega)

end

/-- Settles O22: a level has a last pixel, and that is the one past the end. -/
theorem levelOverruns : Obligations.LevelOverruns := by
  rintro s level _ n hf hl rfl hw
  have hpos : 0 < n := Nat.mul_pos (levelDim_pos _ _) (levelDim_pos _ _)
  obtain ⟨last, hlast⟩ : ∃ last, n = last + 1 := Nat.exists_eq_add_one.mpr hpos
  rw [hlast]
  refine ⟨fun f => execDecodeImage_direct_overrun hf hl hw hlast, ?_⟩
  rintro pal unknown hx (⟨hfmt, hend⟩ | ⟨hfmt, hend⟩)
  · exact execDecodeImage_idtex8_overrun hf hl hw hlast hx hfmt hend
  · exact execDecodeImage_idtex4_overrun hf hl hw hlast hx hfmt hend

end Sys2Proof.Machine
end

section
/-! The palette (42_palette.md): the compound remap (R113), `GET_CLUT` with and without entries (R110 to R119), a palette
that runs past the end of a written `CLUT` (R134, R137), the operations that begin and advance a palette (R111 to R114,
R118), and `GET_CLUT` followed operation by operation (log 9). -/

namespace Sys2Proof.Machine

/-! ### The compound remap (R113) -/

/-- The three parts of a block of 32 under the compound remap. -/
theorem remapCompound_cases (k : Nat) :
    (8 ≤ k % 32 ∧ k % 32 < 16 ∧ remapCompound k = k + 8) ∨
    (16 ≤ k % 32 ∧ k % 32 < 24 ∧ remapCompound k + 8 = k) ∨
    ((k % 32 < 8 ∨ 24 ≤ k % 32) ∧ remapCompound k = k) := by
  unfold remapCompound
  split
  · omega
  · split <;> omega

/-- Bits 4:3 inverted where they differ: the block is kept, and inside it the position moves by eight. -/
theorem xor_bits_4_3 (k : Nat) :
    (k / 8 % 4 = 1 → k ^^^ 0x18 = k + 8) ∧ (k / 8 % 4 = 2 → (k ^^^ 0x18) + 8 = k) := by
  have hblock : (k ^^^ 0x18) / 2 ^ 5 = k / 2 ^ 5 := by rw [Nat.xor_div_two_pow]; exact Nat.xor_zero _
  have hpos : (k ^^^ 0x18) % 2 ^ 5 = (k % 2 ^ 5) ^^^ 0x18 := Nat.xor_mod_two_pow
  have hswap : ∀ r < 32, (r / 8 % 4 = 1 → r ^^^ 0x18 = r + 8) ∧ (r / 8 % 4 = 2 → (r ^^^ 0x18) + 8 = r) := by decide
  have := hswap (k % 2 ^ 5) (Nat.mod_lt _ (by decide))
  omega

/-- Settles O8: each clause by the part of the block that `k`, and then its image, stands in. -/
theorem remapCompoundSwaps : Obligations.RemapCompoundSwaps := by
  intro k
  have hk := remapCompound_cases k
  have himage := remapCompound_cases (remapCompound k)
  have hxor := xor_bits_4_3 k
  refine ⟨?_, ?_, ?_, ?_, ?_, ?_, ?_⟩ <;> omega

/-! ### `GET_CLUT` completed (R110) -/

/-- A palette that decodes is delivered without dimensions, and nothing but the result changes. -/
theorem execGetClut_completes {s : State} {pal : List Color} {u : Bool} (hf : s.status.fault = false)
    (hpal : decodePalette s = .ok (pal, u)) :
    ∃ t, exec .getClut s = .next t ∧ t.completedWith 0 0 pal u ∧
      s.sameInputs t ∧ t.cmd = s.cmd ∧ t.status.faultCode = s.status.faultCode := by
  have hexec := execGetClut_ok hf hpal
  obtain ⟨hsame, hcmd⟩ := execGetClut_sameInputs hexec
  have hlen : pal.length < 2 ^ 32 := by
    have := decodePalette_length hpal
    omega
  exact ⟨_, hexec, deliver_completed hf (by decide) (by decide) hlen, hsame, hcmd, rfl⟩

/-- A raw entry at the address of R33. -/
theorem clEntry_eq (f : DirectFmt) (s : State) (j : Nat) :
    clEntry f s j = (memRead s .clut (f.bytes * j) f.bytes).map (directColor f) := by
  rw [clEntry, Nat.mul_comm]

/-- Settles O23: entry `K` is read from the bytes of raw entry `Remap(K)`. -/
theorem getClutEntries : Obligations.GetClutEntries := by
  intro s f data hf hclut hfmt hentries
  have hcolors := collect_ok (f := fun k => clEntry f s (remap s.pic.clutType k))
    (g := fun k => directColor f (f.datum data (remap s.pic.clutType k))) (p := 0) (n := s.pic.clutColors.toNat)
    fun k hk => by
      obtain ⟨hin, hd⟩ := hentries k hk
      rw [Nat.zero_add, clEntry_eq]
      exact memRead_map_holds (space := .clut) (directColor f) hin hd
  simp only [Nat.zero_add] at hcolors
  exact execGetClut_completes hf ((decodePalette_entries hclut (entryFmt_of_code hfmt)).trans (by rw [hcolors]; rfl))

/-- Settles O24: neither palette reads an entry. -/
theorem getClutWithoutEntries : Obligations.GetClutWithoutEntries := by
  intro s
  refine ⟨fun hnone => ?noClut, fun hsize hfmt => ?unknown⟩
  case noClut =>
    have hclut : s.pic.hasClut = false := eq_false_of_ne_true fun hc => by
      obtain ⟨hsize, hfmt⟩ := hasClut_iff.mp hc
      rcases hnone with h | h
      · simp [h] at hsize
      · exact hfmt h
    have hpal := decodePalette_none hclut
    exact ⟨hpal, fun hf => execGetClut_completes hf hpal⟩
  case unknown =>
    have hpos : 0 < s.pic.clutSize.toNat := Nat.pos_of_ne_zero fun h => hsize (BitVec.eq_of_toNat_eq h)
    have hpal := decodePalette_unknown (hasClut_iff.mpr ⟨hpos, by omega⟩) (entryFmt_eq_none (.inr hfmt))
    exact ⟨hpal, fun hf => execGetClut_completes hf hpal⟩

/-! ### A palette that does not fit (R134, R137) -/

/-- Settles O25: the entries before may have stopped the loop, but only at an overrun too. -/
theorem paletteOverruns : Obligations.PaletteOverruns := by
  intro s f k hf hclut hfmt hk hend hw
  have hloop : collect (fun k => clEntry f s (remap s.pic.clutType k)) 0 s.pic.clutColors.toNat =
      .error (.overrun .clut) := by
    refine collect_error (fun i _ => memRead_map_written (space := .clut) hw _ _ _) ⟨k, hk, ?_⟩
    rw [Nat.zero_add, clEntry_eq]
    exact memRead_map_overrun (space := .clut) _ hend
  have hstop : decodePalette s = .error (.overrun .clut) :=
    (decodePalette_entries hclut (entryFmt_of_code hfmt)).trans (by rw [hloop]; rfl)
  refine ⟨execGetClut_error hf hstop, fun level hl himg => ?_⟩
  have hindexed : isIndexed s.pic.imgFmt = true := by rcases himg with h | h <;> rw [h] <;> rfl
  exact execDecodeImage_palette_stop hf hl hindexed hstop

/-! ### The palette operations (R111 to R114, R118) -/

/-- Settles O41: `remapLinear` is the index itself. -/
theorem idxOnIndex : Obligations.IdxOnIndex := fun _ _ _ _ _ _ _ hw hk => ⟨indexStep_ok hw hk, indexStep_ok hw hk⟩

/-- A whole-palette operation where a command classifies its palette. -/
theorem wholePalette_ok {name : String} {u : Bool} {pal : List Color} {s : State} {goal : Goal}
    (hw : s.work = some (.palSelect goal)) : wholePalette name u pal s = .next (s.atReady goal (pal, u)) := by
  simp [wholePalette, hw, State.atReady, State.atWork]

/-- Settles O44: only the second raises the flag. -/
theorem clWholePalette : Obligations.ClWholePalette := by
  intro s goal csm compound fmt hw
  refine ⟨(wholePalette_ok hw).trans (by rw [atReady_unflagged]; rfl), (wholePalette_ok hw).trans ?_⟩
  simp [State.atReady, State.atWork, flagUnknown, Status.flagUnknown, unknownPalette, Config.defaultColor]

/-! ### `GET_CLUT` followed operation by operation (R110, R112) -/

/-- The one step of the command by `DecodePalette`. -/
theorem execGetClut_eq_outcomeOf {s : State} (hf : s.status.fault = false) :
    execGetClut s = outcomeOf s (fun x => deliver (flagUnknown (startCommand s) x.2) 0 0 x.1) (decodePalette s) := by
  cases hpal : decodePalette s with
  | error e => exact execGetClut_error hf hpal
  | ok x => exact execGetClut_ok hf hpal

/-- Settles O53: the palette's operations, then the step that delivers it. -/
theorem getClutByOperations : Obligations.GetClutByOperations := by
  intro s hr hf
  have hpalette := reaches_palette (s := startCommand s) hr .clut
  rw [decodePalette_congr (s := s) (t := startCommand s) rfl rfl rfl] at hpalette
  change Reaches ((startCommand s).atWork (.palSelect .clut)) (execGetClut s)
  rw [execGetClut_eq_outcomeOf hf]
  generalize decodePalette s = palette at hpalette ⊢
  cases palette with
  | error e => exact hpalette
  | ok x => exact hpalette.trans (.of_step (step_ready (s := (startCommand s).atReady .clut x) hr rfl))

end Sys2Proof.Machine
end

section
/-! Exceptions (R130 to R138): the undefined opcode and the state that fault entry leaves. -/

namespace Sys2Proof.Machine

/-! ### The undefined opcode (R135) -/

/-- The opcodes of R51 as the bytes they are. -/
theorem isOpcode_eq_false_of_ne {op : BitVec 8} (h1 : op ≠ 0x01) (h2 : op ≠ 0x02) (h3 : op ≠ 0x7F) :
    isOpcode op = false := by
  rw [isOpcode_eq_false_iff]
  bv_omega

/-- Settles O29: raised or refused, by the fault flag; and decoded to by every word with that opcode. -/
theorem illegalCommandRaised : Obligations.IllegalCommandRaised := by
  intro s op
  refine ⟨execIllegal_unfaulted op, exec_cmd_faulted rfl nofun, fun h1 h2 h3 w hop => ?_⟩
  subst hop
  exact decodeCmd_illegal (isOpcode_eq_false_of_ne h1 h2 h3)

/-! ### Fault entry (R138) -/

/-- Fault entry leaves the descriptor, both blobs and the host's accesses. -/
theorem faultEntry_sameInputs (s : State) (code : FaultCode) : s.sameInputs (faultEntry s code) :=
  ⟨faultEntry_pic s code, faultEntry_img s code, faultEntry_clut s code, faultEntry_host s code, faultEntry_rdata s code,
    faultEntry_draws s code⟩

/-- Settles O30: what fault entry writes, field by field, then its frame. -/
theorem faultEntryState : Obligations.FaultEntryState := by
  intro s code
  exact ⟨faultEntry_status s code, faultEntry_resW s code, faultEntry_resH s code, faultEntry_resCount s code,
    faultEntry_out s code, faultEntry_work s code, faultEntry_sameInputs s code, faultEntry_cmd s code⟩

end Sys2Proof.Machine
end

section
/-! The first commands after reset (R151): both meet their empty case. -/

namespace Sys2Proof.Machine

/-- No level is valid at reset: `PIC.MIP_COUNT` is 0 (R29, R151). -/
theorem reset_invalidLevel (level : BitVec 8) : State.reset.pic.invalidLevel level = true :=
  decide_eq_true (Nat.zero_le level.toNat)

/-- There is no palette at reset: `PIC.CLUT_SIZE` is 0 (R29, R151). -/
theorem reset_hasClut : State.reset.pic.hasClut = false := rfl

/-- Settles O54: no level is valid and there is no palette. -/
theorem firstCommandSafe : Obligations.FirstCommandSafe :=
  ⟨fun level => ⟨_, execDecodeImage_invalid rfl (reset_invalidLevel level), rfl, rfl, rfl, rfl, rfl⟩,
    _, execGetClut_ok rfl (decodePalette_none reset_hasClut), rfl, rfl, rfl, rfl, rfl⟩

end Sys2Proof.Machine
end
